-- ==== Sys2Proof/Word.lean ====
section
/-! DEFINITION. The word types of the machine: bytes, 16-bit words, and the fields of an
instruction (spec/00_scope.md R12, spec/30_encoding.md R101). Every value is unsigned. -/

namespace Sys2Proof

/-- `u8`: a register, a timer, a memory byte, an immediate `nn`. -/
abbrev Byte := BitVec 8

/-- `u16`: the index register, the program counter, a stack slot, an instruction word. -/
abbrev Word := BitVec 16

/-- A 4-bit field: a register selector `x` or `y`, a sprite height `n`, a key value. -/
abbrev Nibble := BitVec 4

/-- A 12-bit address immediate `nnn`. -/
abbrev Addr12 := BitVec 12

end Sys2Proof
end

