-- ==== Sys2Proof/Syntax.lean ====
section
/-! DEFINITION. The instructions: one constructor per row of spec/opcode_table.json (34 instructions and
the two no-op rows; spec/30_encoding.md R104). -/

namespace Sys2Proof

/-- An instruction. `x` and `y` select registers, `n` is a nibble, `nn` a byte and `nnn` a 12-bit
immediate (R101). Each docstring gives the pattern and the rule of its meaning. -/
inductive Instr where
  /-- 00E0 CLS (R160). -/
  | cls
  /-- 00EE RET (R181). -/
  | ret
  /-- 1nnn JP nnn (R183). -/
  | jp (nnn : Addr12)
  /-- 2nnn CALL nnn (R182). -/
  | call (nnn : Addr12)
  /-- 3xnn SE Vx, nn (R185). -/
  | seImm (x : Nibble) (nn : Byte)
  /-- 4xnn SNE Vx, nn (R186). -/
  | sneImm (x : Nibble) (nn : Byte)
  /-- 5xy0 SE Vx, Vy (R187). -/
  | seReg (x y : Nibble)
  /-- 6xnn LD Vx, nn (R221). -/
  | ldImm (x : Nibble) (nn : Byte)
  /-- 7xnn ADD Vx, nn (R222). -/
  | addImm (x : Nibble) (nn : Byte)
  /-- 8xy0 LD Vx, Vy (R223). -/
  | ldReg (x y : Nibble)
  /-- 8xy1 OR Vx, Vy (R224). -/
  | orReg (x y : Nibble)
  /-- 8xy2 AND Vx, Vy (R225). -/
  | andReg (x y : Nibble)
  /-- 8xy3 XOR Vx, Vy (R226). -/
  | xorReg (x y : Nibble)
  /-- 8xy4 ADD Vx, Vy (R227). -/
  | addReg (x y : Nibble)
  /-- 8xy5 SUB Vx, Vy (R228). -/
  | subReg (x y : Nibble)
  /-- 8xy6 SHR Vx; y is carried and not read (R229). -/
  | shr (x y : Nibble)
  /-- 8xy7 SUBN Vx, Vy (R230). -/
  | subnReg (x y : Nibble)
  /-- 8xyE SHL Vx; y is carried and not read (R231). -/
  | shl (x y : Nibble)
  /-- 9xy0 SNE Vx, Vy (R188). -/
  | sneReg (x y : Nibble)
  /-- Annn LD I, nnn (R250). -/
  | ldI (nnn : Addr12)
  /-- Bnnn JP V0, nnn (R189). -/
  | jpV0 (nnn : Addr12)
  /-- Cxnn RND Vx, nn (R232). -/
  | rnd (x : Nibble) (nn : Byte)
  /-- Dxyn DRW Vx, Vy, n (R161). -/
  | drw (x y n : Nibble)
  /-- Ex9E SKP Vx (R280). -/
  | skp (x : Nibble)
  /-- ExA1 SKNP Vx (R281). -/
  | sknp (x : Nibble)
  /-- Fx07 LD Vx, DT (R282). -/
  | ldVxDt (x : Nibble)
  /-- Fx0A LD Vx, K (R283). -/
  | ldVxK (x : Nibble)
  /-- Fx15 LD DT, Vx (R285). -/
  | ldDtVx (x : Nibble)
  /-- Fx18 LD ST, Vx (R286). -/
  | ldStVx (x : Nibble)
  /-- Fx1E ADD I, Vx (R251). -/
  | addI (x : Nibble)
  /-- Fx29 LD F, Vx (R252). -/
  | ldF (x : Nibble)
  /-- Fx33 LD B, Vx (R253). -/
  | ldB (x : Nibble)
  /-- Fx55 LD [I], Vx (R254). -/
  | stRegs (x : Nibble)
  /-- Fx65 LD Vx, [I] (R255). -/
  | ldRegs (x : Nibble)
  /-- 0nnn other than 00E0 and 00EE: the first no-op row (R106, R133). -/
  | nop0 (nnn : Addr12)
  /-- Any other word that no row matches: the second no-op row (R105, R133). -/
  | nop (w : Word)
deriving DecidableEq, Repr

end Sys2Proof
end

