-- ==== Sys2Proof/WellFormed.lean ====
section
/-! DEFINITION. When an instruction term stands for a word. Every field of the 34 instructions admits
every value of its width (R101), so the checks are about the two no-op rows: they hold exactly the
unrecognized words of spec/30_encoding.md R105. -/

namespace Sys2Proof

/-- The words of R105 outside the family 0x0, written from its list: 0x5xyN and 0x9xyN with N ≠ 0,
0x8xyN with N in 8..D or F, and the E and F families with any low byte but the listed ones. -/
def unrecognizedOutside0 (w : Word) : Bool :=
  let op := (w.extractLsb' 12 4).toNat
  let n := (w.extractLsb' 0 4).toNat
  let nn := (w.extractLsb' 0 8).toNat
  (op == 0x5 && n != 0) ||
  (op == 0x8 && [0x8, 0x9, 0xA, 0xB, 0xC, 0xD, 0xF].contains n) ||
  (op == 0x9 && n != 0) ||
  (op == 0xE && !([0x9E, 0xA1].contains nn)) ||
  (op == 0xF && !([0x07, 0x0A, 0x15, 0x18, 0x1E, 0x29, 0x33, 0x55, 0x65].contains nn))

/-- Well-formed instructions: those some word decodes to. -/
def Instr.wf : Instr → Bool
  | .cls => true
  | .ret => true
  | .jp _ => true
  | .call _ => true
  | .seImm _ _ => true
  | .sneImm _ _ => true
  | .seReg _ _ => true
  | .ldImm _ _ => true
  | .addImm _ _ => true
  | .ldReg _ _ => true
  | .orReg _ _ => true
  | .andReg _ _ => true
  | .xorReg _ _ => true
  | .addReg _ _ => true
  | .subReg _ _ => true
  | .shr _ _ => true
  | .subnReg _ _ => true
  | .shl _ _ => true
  | .sneReg _ _ => true
  | .ldI _ => true
  | .jpV0 _ => true
  | .rnd _ _ => true
  | .drw _ _ _ => true
  | .skp _ => true
  | .sknp _ => true
  | .ldVxDt _ => true
  | .ldVxK _ => true
  | .ldDtVx _ => true
  | .ldStVx _ => true
  | .addI _ => true
  | .ldF _ => true
  | .ldB _ => true
  | .stRegs _ => true
  | .ldRegs _ => true
  | .nop0 nnn => nnn != 0x0E0#12 && nnn != 0x0EE#12
  | .nop w => unrecognizedOutside0 w

end Sys2Proof
end

