-- ==== Sys2Proof/Decode.lean ====
section
/-! DEFINITION. The decoder and the encoder (spec/30_encoding.md R100 to R107): fields, the opcode map,
byte order, and the encoder written from the same formats. -/

namespace Sys2Proof

/-- `w[15:12]`, the opcode family (R101). -/
def fieldOp (w : Word) : Nibble := w.extractLsb' 12 4

/-- `x = w[11:8]` (R101). -/
def fieldX (w : Word) : Nibble := w.extractLsb' 8 4

/-- `y = w[7:4]` (R101). -/
def fieldY (w : Word) : Nibble := w.extractLsb' 4 4

/-- `n = w[3:0]` (R101). -/
def fieldN (w : Word) : Nibble := w.extractLsb' 0 4

/-- `nn = w[7:0]` (R101). -/
def fieldNn (w : Word) : Byte := w.extractLsb' 0 8

/-- `nnn = w[11:0]` (R101). -/
def fieldNnn (w : Word) : Addr12 := w.extractLsb' 0 12

/-- Family 0x8: the low nibble selects (R104). -/
def decode8 (w : Word) : Instr :=
  match (fieldN w).toNat with
  | 0x0 => .ldReg (fieldX w) (fieldY w)
  | 0x1 => .orReg (fieldX w) (fieldY w)
  | 0x2 => .andReg (fieldX w) (fieldY w)
  | 0x3 => .xorReg (fieldX w) (fieldY w)
  | 0x4 => .addReg (fieldX w) (fieldY w)
  | 0x5 => .subReg (fieldX w) (fieldY w)
  | 0x6 => .shr (fieldX w) (fieldY w)
  | 0x7 => .subnReg (fieldX w) (fieldY w)
  | 0xE => .shl (fieldX w) (fieldY w)
  | _ => .nop w

/-- Family 0xE: the low byte selects (R104). -/
def decodeE (w : Word) : Instr :=
  if fieldNn w = 0x9E#8 then .skp (fieldX w)
  else if fieldNn w = 0xA1#8 then .sknp (fieldX w)
  else .nop w

/-- Family 0xF: the low byte selects (R104). -/
def decodeF (w : Word) : Instr :=
  if fieldNn w = 0x07#8 then .ldVxDt (fieldX w)
  else if fieldNn w = 0x0A#8 then .ldVxK (fieldX w)
  else if fieldNn w = 0x15#8 then .ldDtVx (fieldX w)
  else if fieldNn w = 0x18#8 then .ldStVx (fieldX w)
  else if fieldNn w = 0x1E#8 then .addI (fieldX w)
  else if fieldNn w = 0x29#8 then .ldF (fieldX w)
  else if fieldNn w = 0x33#8 then .ldB (fieldX w)
  else if fieldNn w = 0x55#8 then .stRegs (fieldX w)
  else if fieldNn w = 0x65#8 then .ldRegs (fieldX w)
  else .nop w

/-- The opcode map (R103, R104): a total function of the word alone (R107). No word is illegal:
what no pattern matches is a no-op (R105). -/
def decodeWord (w : Word) : Instr :=
  match (fieldOp w).toNat with
  | 0x0 =>
    if w = 0x00E0#16 then .cls else if w = 0x00EE#16 then .ret else .nop0 (fieldNnn w)
  | 0x1 => .jp (fieldNnn w)
  | 0x2 => .call (fieldNnn w)
  | 0x3 => .seImm (fieldX w) (fieldNn w)
  | 0x4 => .sneImm (fieldX w) (fieldNn w)
  | 0x5 => if fieldN w = 0x0#4 then .seReg (fieldX w) (fieldY w) else .nop w
  | 0x6 => .ldImm (fieldX w) (fieldNn w)
  | 0x7 => .addImm (fieldX w) (fieldNn w)
  | 0x8 => decode8 w
  | 0x9 => if fieldN w = 0x0#4 then .sneReg (fieldX w) (fieldY w) else .nop w
  | 0xA => .ldI (fieldNnn w)
  | 0xB => .jpV0 (fieldNnn w)
  | 0xC => .rnd (fieldX w) (fieldNn w)
  | 0xD => .drw (fieldX w) (fieldY w) (fieldN w)
  | 0xE => decodeE w
  | _ => decodeF w -- 0xF, the one nibble left

/-- Why bytes do not decode. -/
inductive DecodeError where
  /-- Fewer than the two bytes of an instruction (R100). -/
  | truncated
deriving DecidableEq, Repr

/-- The word two consecutive bytes hold: big-endian, the first byte is bits 15:8 (R77). -/
def wordOfBytes (hi lo : Byte) : Word := hi ++ lo

/-- Decoding bytes: the instruction and the bytes after it. -/
def decode : List Byte → Except DecodeError (Instr × List Byte)
  | hi :: lo :: rest => .ok (decodeWord (wordOfBytes hi lo), rest)
  | _ => .error .truncated

/-- A word from its four nibbles, the most significant first. -/
def wordOfNibbles (a b c d : Nibble) : Word := a ++ b ++ c ++ d

/-- Format A12: op and nnn (R102). -/
def wordA12 (op : Nibble) (nnn : Addr12) : Word := op ++ nnn

/-- Formats XB and XS: op, x and a byte (R102). -/
def wordXB (op x : Nibble) (nn : Byte) : Word := op ++ x ++ nn

/-- The word of an instruction, from the formats of R102 and the patterns of R104. -/
def encodeWord : Instr → Word
  | .cls => 0x00E0#16
  | .ret => 0x00EE#16
  | .jp nnn => wordA12 0x1#4 nnn
  | .call nnn => wordA12 0x2#4 nnn
  | .seImm x nn => wordXB 0x3#4 x nn
  | .sneImm x nn => wordXB 0x4#4 x nn
  | .seReg x y => wordOfNibbles 0x5#4 x y 0x0#4
  | .ldImm x nn => wordXB 0x6#4 x nn
  | .addImm x nn => wordXB 0x7#4 x nn
  | .ldReg x y => wordOfNibbles 0x8#4 x y 0x0#4
  | .orReg x y => wordOfNibbles 0x8#4 x y 0x1#4
  | .andReg x y => wordOfNibbles 0x8#4 x y 0x2#4
  | .xorReg x y => wordOfNibbles 0x8#4 x y 0x3#4
  | .addReg x y => wordOfNibbles 0x8#4 x y 0x4#4
  | .subReg x y => wordOfNibbles 0x8#4 x y 0x5#4
  | .shr x y => wordOfNibbles 0x8#4 x y 0x6#4
  | .subnReg x y => wordOfNibbles 0x8#4 x y 0x7#4
  | .shl x y => wordOfNibbles 0x8#4 x y 0xE#4
  | .sneReg x y => wordOfNibbles 0x9#4 x y 0x0#4
  | .ldI nnn => wordA12 0xA#4 nnn
  | .jpV0 nnn => wordA12 0xB#4 nnn
  | .rnd x nn => wordXB 0xC#4 x nn
  | .drw x y n => wordOfNibbles 0xD#4 x y n
  | .skp x => wordXB 0xE#4 x 0x9E#8
  | .sknp x => wordXB 0xE#4 x 0xA1#8
  | .ldVxDt x => wordXB 0xF#4 x 0x07#8
  | .ldVxK x => wordXB 0xF#4 x 0x0A#8
  | .ldDtVx x => wordXB 0xF#4 x 0x15#8
  | .ldStVx x => wordXB 0xF#4 x 0x18#8
  | .addI x => wordXB 0xF#4 x 0x1E#8
  | .ldF x => wordXB 0xF#4 x 0x29#8
  | .ldB x => wordXB 0xF#4 x 0x33#8
  | .stRegs x => wordXB 0xF#4 x 0x55#8
  | .ldRegs x => wordXB 0xF#4 x 0x65#8
  | .nop0 nnn => wordA12 0x0#4 nnn
  | .nop w => w

/-- Bits 15:8 of a word, the byte at the lower address (R77). -/
def highByte (w : Word) : Byte := w.extractLsb' 8 8

/-- Bits 7:0 of a word, the byte at the higher address (R77). -/
def lowByte (w : Word) : Byte := w.extractLsb' 0 8

/-- The bytes of an instruction in memory order. -/
def encode (i : Instr) : List Byte := [highByte (encodeWord i), lowByte (encodeWord i)]

/-- The host's view: the instruction the decoder reads from the bits `w` of a word of the table.
Every row has 16 bits; a number that does not fit one word is no instruction. -/
def decodeTableWord (nbits w : Nat) : Option Instr :=
  if nbits ≤ 16 ∧ w < 2 ^ nbits then
    match decode [highByte (BitVec.ofNat 16 w), lowByte (BitVec.ofNat 16 w)] with
    | .ok (i, _) => some i
    | .error _ => none
  else none

end Sys2Proof
end

