-- ==== Sys2Proof/Config.lean ====
section
/-! DEFINITION. What is fixed for the life of one machine (spec/00_scope.md R9, R10), and the host's
inputs (R11, spec/60_exceptions.md R330): the events a host can deliver, and the free host. -/

namespace Sys2Proof

/-- The configuration of one machine (R10). State carries it in one field that no step changes,
so a claim about every state is a claim about every configuration (log 1). -/
structure Config where
  /-- `ROM`: the program image copied to 0x200; at most 3584 bytes (R351). -/
  rom : List Byte
  /-- `IPS`: instructions per second; at least 1 (R351). -/
  ips : Nat
  /-- `T0`: the timestamp of construction, in nanoseconds. -/
  t0 : Nat
  /-- `FONT`: the bytes of 0x000..0x04F. -/
  font : Vector Byte 80
  /-- `SHL_VF_RAW`: whether 8xyE writes VF as the raw bit 0x00/0x80 (R231). -/
  shlVfRaw : Bool
deriving DecidableEq, Repr

/-- `TIMER_PERIOD`, in nanoseconds (R152). -/
abbrev timerPeriod : Nat := 16666666

/-- One second in nanoseconds, the dividend of R151. -/
abbrev nsPerSecond : Nat := 1000000000

/-- The address program code starts at (R71). -/
abbrev programBase : Nat := 0x200

/-- The bytes there are from 0x200 to the end of memory (R351). -/
abbrev maxRom : Nat := 3584

/-- What the host passes to one `cycle(now)` call (R150) and answers during it. A call executes at
most one instruction, and an instruction asks for at most one input (R135), so one byte and one
Boolean are enough (log 7). -/
structure HostCall where
  /-- The timestamp of the call, in nanoseconds. -/
  now : Nat
  /-- What `draw_rand()` answers in this call (R232). -/
  rand : Byte
  /-- What `key_held(k)` answers in this call, for whichever k it is asked (R280, R281). -/
  held : Bool
deriving DecidableEq, Repr

/-- A transaction of the host after construction (R330). -/
inductive HostEvent where
  /-- `cycle(now)`. -/
  | cycle (c : HostCall)
  /-- A key-down with a key value 0x0..0xF. -/
  | keyDown (k : Nibble)
  /-- The termination input. -/
  | terminate
deriving DecidableEq, Repr

/-- A FREE VALUE: what the host does at its n-th turn once the events listed in State are used up;
`none` is a turn at which it does nothing. It has no body, so nothing can be proved of what a host
does, and a claim holds for every host (R11, R331; log 5). -/
opaque Config.hostEvent : Nat → Option HostEvent

/-- Glyphs 0 to 7 of the default font (spec/93_implementation_defined.md, G1). -/
def Config.defaultFontLow : List Byte :=
  [0xF0, 0x90, 0x90, 0x90, 0xF0,  0x20, 0x60, 0x20, 0x20, 0x70] ++
  [0xF0, 0x10, 0xF0, 0x80, 0xF0,  0xF0, 0x10, 0xF0, 0x10, 0xF0] ++
  [0x90, 0x90, 0xF0, 0x10, 0x10,  0xF0, 0x80, 0xF0, 0x10, 0xF0] ++
  [0xF0, 0x80, 0xF0, 0x90, 0xF0,  0xF0, 0x10, 0x20, 0x40, 0x40]

/-- Glyphs 8 to F of the default font (G1). -/
def Config.defaultFontHigh : List Byte :=
  [0xF0, 0x90, 0xF0, 0x90, 0xF0,  0xF0, 0x90, 0xF0, 0x10, 0xF0] ++
  [0xF0, 0x90, 0xF0, 0x90, 0x90,  0xE0, 0x90, 0xE0, 0x90, 0xE0] ++
  [0xF0, 0x80, 0x80, 0x80, 0xF0,  0xE0, 0x90, 0x90, 0x90, 0xE0] ++
  [0xF0, 0x80, 0xF0, 0x80, 0xF0,  0xF0, 0x80, 0xF0, 0x80, 0x80]

/-- PRESUMED. The default font table, which the spec marks as general knowledge (D9, G1; log 3). -/
def Config.defaultFont : Vector Byte 80 :=
  Vector.mk (Config.defaultFontLow ++ Config.defaultFontHigh).toArray rfl

/-- DESIGN CHOICE. The configuration of `State.reset`: the construction of the spec's own vector L1.1
(spec/95_test_vectors.md: ROM = [], IPS = 500, T0 = 0), with the default font and the default
SHL_VF_RAW (log 2, log 3, log 4). The spec gives ROM, IPS and T0 no default (D24). -/
def Config.default : Config :=
  Config.mk [] 500 0 Config.defaultFont false

end Sys2Proof
end

