-- ==== Sys2Proof/Machine/State.lean ====
section
/-! DEFINITION. The state of the core as plain data (spec/10_state.md), the reasons a step stops, and the
state after construction (spec/70_reset_and_hazards.md R350). -/

namespace Sys2Proof.Machine

/-- The fault codes of spec/60_exceptions.md R312. -/
inductive FaultCode where
  /-- FETCH_OUT_OF_RANGE: PC > 0xFFE at a fetch (R130). -/
  | fetchOutOfRange
  /-- MEM_OUT_OF_RANGE: an accessed address above 0xFFF (R74). -/
  | memOutOfRange
  /-- STACK_OVERFLOW: a call with SP = 16 (R182). -/
  | stackOverflow
  /-- STACK_UNDERFLOW: a return with SP = 0 (R181). -/
  | stackUnderflow
  /-- HOST_TIME_REGRESSION: a call with `now` below a timing marker (R157). -/
  | hostTimeRegression
deriving DecidableEq, Repr

/-- The number of a fault code (R312). -/
def FaultCode.number : FaultCode → Nat
  | .fetchOutOfRange => 1
  | .memOutOfRange => 2
  | .stackOverflow => 3
  | .stackUnderflow => 4
  | .hostTimeRegression => 5

/-- The fault record (R313). -/
structure FaultRecord where
  code : FaultCode
  /-- The address of the instruction being executed, or the PC that could not be fetched. -/
  pc : Word
  /-- The fetched word; absent for codes 1 and 5. -/
  word : Option Word
  /-- The first out-of-range address (code 2) or the offending `now` (code 5). -/
  detail : Option Nat
deriving DecidableEq, Repr

/-- The status of the core (R52). -/
inductive Status where
  | running
  /-- Fx0A blocks for a key-down: its register and the timestamp of the suspended call. -/
  | waitingKey (x : Nibble) (t : Nat)
  /-- After a fatal condition; permanent (R311). -/
  | faulted (r : FaultRecord)
  /-- After a termination input in a wait; permanent (R284). -/
  | terminated
deriving DecidableEq, Repr

/-- Memory: the bytes that differ from their construction value, addresses strictly rising. What an
unlisted address reads as is `Config.image` of Machine/Ops.lean (R76; log 13). -/
abbrev Memory := List Host.Cell

/-- The display: 32 rows of 64 pixels, row-major, `true` for a pixel that is 1 (R46). -/
abbrev Display := Vector (Vector Bool 64) 32

/-- The state of the machine. The fields from `config` to `status` are the spec's (R30 to R53); the
fields after them are the model's own. -/
structure State where
  /-- The configuration, fixed for the machine's life (R10, R53; log 1). -/
  config : Config
  /-- V0..VF; VF is V[15] (R30, R32). -/
  v : Vector Byte 16
  /-- The index register I (R37). -/
  i : Word
  /-- The program counter PC (R34). -/
  pc : Word
  /-- SP, the number of occupied stack slots, 0..16 (R41). -/
  sp : Fin 17
  /-- STACK[0..15] (R40). -/
  stack : Vector Word 16
  /-- The delay timer DT (R43). -/
  dt : Byte
  /-- The sound timer ST (R44). -/
  st : Byte
  /-- MEM (R45). -/
  mem : Memory
  /-- DISP (R46). -/
  disp : Display
  /-- Output clear_requested (R50). -/
  clearRequested : Bool
  /-- Output display_dirty (R50). -/
  displayDirty : Bool
  /-- Output beep_active (R50). -/
  beepActive : Bool
  /-- last_timer_tick, in nanoseconds (R51). -/
  lastTimerTick : Nat
  /-- last_instruction_tick, in nanoseconds (R51). -/
  lastInstructionTick : Nat
  /-- The status (R52). -/
  status : Status
  /-- The inputs of the `cycle` call in progress, or of the last one (log 7). -/
  call : HostCall
  /-- The host events already known to come, the next one first (log 5). -/
  host : List HostEvent
  /-- How many turns of the free host have been taken (log 5). -/
  turn : Nat
  /-- The address of the instruction being executed, for the fault record (R313; log 10). -/
  instrPc : Word
  /-- The word of the instruction being executed, for the fault record (R313; log 10). -/
  instrWord : Word
deriving DecidableEq, Repr

/-- Why a step stops for good. -/
inductive Fault where
  /-- Raised by `step` in the status Faulted: the core takes no further transaction (R311). The record is
  the one the fault left. Safe: the hardware has stopped too (log 8). -/
  | faulted (r : FaultRecord)
  /-- Raised by `step` in the status Terminated: the process has ended (R158, R284). Safe: the hardware
  has stopped too (log 9). -/
  | terminated
deriving DecidableEq, Repr

/-- Why something has no meaning. -/
inductive Refusal where
  /-- For an instruction with no meaning yet. No arm of `exec` answers it: every row is modelled. Safe. -/
  | notModelled (mnemonic : String)
  /-- Raised by `construct` for IPS = 0: no machine exists (R351). Safe. -/
  | zeroRate
  /-- Raised by `construct` for a ROM of more than 3584 bytes: no machine exists (R351). Safe. -/
  | romTooLong
deriving DecidableEq, Repr

/-- The state `construct` gives a machine of configuration `c` (R350): everything zero, memory as its
construction image says (nothing listed), PC = 0x200, both markers T0, Running. -/
def State.initial (c : Config) : State where
  config := c
  v := Vector.replicate 16 0#8
  i := 0#16
  pc := 0x200#16
  sp := 0
  stack := Vector.replicate 16 0#16
  dt := 0#8
  st := 0#8
  mem := []
  disp := Vector.replicate 32 (Vector.replicate 64 false)
  clearRequested := false
  displayDirty := false
  beepActive := false
  lastTimerTick := c.t0
  lastInstructionTick := c.t0
  status := .running
  call := HostCall.mk c.t0 0#8 false
  host := []
  turn := 0
  instrPc := 0#16
  instrWord := 0#16

/-- The machine right after reset: the one reset is construction (R352), here of `Config.default`. -/
def State.reset : State := State.initial Config.default

end Sys2Proof.Machine
end

