-- ==== Sys2Proof/Machine/Ops.lean ====
section
/-! DEFINITION. The shared operations: memory (spec/20_memory.md), raising a fault (spec/60_exceptions.md R311),
the call stack (spec/42_control_flow.md R180) and the skip (R184). -/

namespace Sys2Proof

/-- The byte an address holds after construction (R76): FONT at 0x000..0x04F, ROM from 0x200, else 0.
It is what an address that memory does not list reads as (log 13). -/
def Config.image (c : Config) (a : Nat) : Byte :=
  if h : a < 80 then c.font[a]
  else if 0x200 ≤ a then c.rom.getD (a - 0x200) 0#8
  else 0#8

/-- Whether a configuration is one that `construct` accepts (R350, R351). -/
def Config.wf (c : Config) : Bool := decide (1 ≤ c.ips) && decide (c.rom.length ≤ maxRom)

end Sys2Proof

namespace Sys2Proof.Machine

/-! ## Memory -/

/-- How many bytes MEM has (R45). -/
abbrev memSize : Nat := 0x1000

/-- The byte listed for an address, if any. -/
def Memory.lookup : Memory → Nat → Option Byte
  | [], _ => none
  | (b, x) :: m, a => if a = b then some x else Memory.lookup m a

/-- The byte at an address: the listed one, else the construction image (R76, R81). -/
def Memory.read (c : Config) (m : Memory) (a : Nat) : Byte :=
  (Memory.lookup m a).getD (c.image a)

/-- The memory without an entry for `a`. -/
def Memory.erase : Memory → Nat → Memory
  | [], _ => []
  | (b, x) :: m, a => if a = b then m else (b, x) :: Memory.erase m a

/-- The memory with `x` listed at `a`, in address order. -/
def Memory.insert : Memory → Nat → Byte → Memory
  | [], a, x => [(a, x)]
  | (b, y) :: m, a, x =>
    if a < b then (a, x) :: (b, y) :: m
    else if a = b then (a, x) :: m
    else (b, y) :: Memory.insert m a x

/-- Writing one byte (R73), keeping the canonical form. There is no byte at 0x1000 or above: the
callers check the range first (R74), and a write there is nothing. -/
def Memory.write (c : Config) (m : Memory) (a : Nat) (x : Byte) : Memory :=
  if memSize ≤ a then m
  else if x = c.image a then Memory.erase m a
  else Memory.insert m a x

/-- The canonical form: addresses strictly rising and in memory, no entry equal to the image. -/
def Memory.wf (c : Config) (m : Memory) : Bool :=
  decide (m.Pairwise fun p q => p.1 < q.1) &&
  m.all fun p => decide (p.1 < memSize) && p.2 != c.image p.1

/-- `MemRead(a, 1)` of an address in memory (R72). -/
def State.byteAt (s : State) (a : Nat) : Byte := Memory.read s.config s.mem a

/-- `MemWrite(a, 1, x)` to an address in memory (R73). -/
def State.setByte (s : State) (a : Nat) (x : Byte) : State :=
  { s with mem := Memory.write s.config s.mem a x }

/-- The `n` bytes from `base` on, in ascending order (R79). -/
def State.bytesFrom (s : State) (base : Nat) : Nat → List Byte
  | 0 => []
  | n + 1 => s.byteAt base :: State.bytesFrom s (base + 1) n

/-- Writing bytes to ascending addresses from `base` on (R79, R81). -/
def State.storeBytes (s : State) (base : Nat) : List Byte → State
  | [] => s
  | x :: xs => State.storeBytes (s.setByte base x) (base + 1) xs

/-- The range check of R74 for `len` bytes at `base`: the first address above 0xFFF if the last
address is above it. The addresses are naturals: I + k does not wrap (spec/44_index_memory.md). -/
def rangeFault (base len : Nat) : Option Nat :=
  if 0 < len ∧ memSize ≤ base + len - 1 then some (max base memSize) else none

/-! ## Faults -/

/-- `raise Fault(code, info)` (R311): the status becomes Faulted with the record and nothing else
changes. This is the one way a fault is taken; there is no return from it (R311). -/
def State.raise (s : State) (r : FaultRecord) : State := { s with status := .faulted r }

/-- A fault of the instruction being executed: the record holds its address and word (R313). -/
def State.raiseInstr (s : State) (code : FaultCode) (detail : Option Nat) : State :=
  s.raise (FaultRecord.mk code s.instrPc (some s.instrWord) detail)

/-- An access of `len` bytes at `base`, checked as a whole before any effect (R74): MEM_OUT_OF_RANGE
with the first address above 0xFFF, or the effect `t`. -/
def State.checked (s : State) (base len : Nat) (t : State) : State :=
  match rangeFault base len with
  | some a => s.raiseInstr .memOutOfRange (some a)
  | none => t

/-! ## The call stack and the program counter -/

/-- `Push(x)` (R180): write the slot SP, then advance SP; nothing at SP = 16. -/
def State.push? (s : State) (x : Word) : Option State :=
  if h : s.sp.val < 16 then
    some { s with stack := s.stack.set s.sp.val x h, sp := ⟨s.sp.val + 1, by omega⟩ }
  else none

/-- `Pop()` (R180): step SP back, then read the slot, which keeps its value; nothing at SP = 0. -/
def State.pop? (s : State) : Option (Word × State) :=
  if h : 0 < s.sp.val then
    have hs : s.sp.val - 1 < 16 := by omega
    some (s.stack[s.sp.val - 1], { s with sp := ⟨s.sp.val - 1, by omega⟩ })
  else none

/-- `PC <- target` (R14). -/
def State.jumpTo (s : State) (target : Word) : State := { s with pc := target }

/-- `Skip` (R184): PC moves a further 2, modulo 2^16. -/
def State.skip (s : State) : State := { s with pc := s.pc + 2#16 }

/-- Skip when the condition holds. -/
def State.skipIf (s : State) (b : Bool) : State := if b then s.skip else s

end Sys2Proof.Machine
end

