-- ==== Sys2Proof/Machine/Operands.lean ====
section
/-! DEFINITION. The operand forms (spec/30_encoding.md R101): general registers, zero-extended bytes and
12-bit addresses, the index register. -/

namespace Sys2Proof.Machine

/-- `V[x]` read (R30). -/
def State.reg (s : State) (x : Nibble) : Byte := s.v[x.toNat]'(x.isLt)

/-- `V[x] <- b` (R30). -/
def State.setReg (s : State) (x : Nibble) (b : Byte) : State :=
  { s with v := s.v.set x.toNat b x.isLt }

/-- `zext_16` of a byte (R14). -/
def zextByte (b : Byte) : Word := b.setWidth 16

/-- `zext_16(nnn)` (R14). -/
def zextAddr (nnn : Addr12) : Word := nnn.setWidth 16

/-- `I <- w` (R37). -/
def State.setI (s : State) (w : Word) : State := { s with i := w }

/-- V0..Vx in ascending order, `n` of them from register `j` on (Fx55). -/
def State.regsFrom (s : State) (j : Nat) : Nat → List Byte
  | 0 => []
  | n + 1 => s.reg (BitVec.ofNat 4 j) :: State.regsFrom s (j + 1) n

/-- Loading `n` registers, V0 first, from the bytes at `base` on (Fx65): a loop that keeps no
intermediate address, since I does not change (R255). -/
def State.loadRegs (s : State) (base : Nat) : Nat → State
  | 0 => s
  | n + 1 =>
    (State.loadRegs s base n).setReg (BitVec.ofNat 4 n) (s.byteAt (base + n))

end Sys2Proof.Machine
end

