-- ==== Sys2Proof/Machine/Flags.lean ====
section
/-! DEFINITION. Every flag computation (spec/10_state.md R36): the flag is VF, computed from the operands
before any write and written after the result (R220, C5 of spec/90_conflicts.md). -/

namespace Sys2Proof.Machine

/-- The index of VF (R13). -/
abbrev vf : Nibble := 0xF#4

/-- A flag as a register value: 1 or 0. -/
def flagByte (b : Bool) : Byte := if b then 1#8 else 0#8

/-- Carry of 8xy4: the unwrapped sum exceeds 255 (R227). -/
def carryOf (a b : Byte) : Bool := decide (255 < a.toNat + b.toNat)

/-- The flag of 8xy5 and 8xy7: the minuend is strictly greater (R228, R230). -/
def greaterOf (a b : Byte) : Bool := decide (b.toNat < a.toNat)

/-- The bit 8xy6 shifts out, as VF holds it (R229). -/
def shiftedOutRight (a : Byte) : Byte := a &&& 0x01#8

/-- What 8xyE writes to VF (R231): bit 7 raw when SHL_VF_RAW, else as 0 or 1. -/
def shiftedOutLeft (raw : Bool) (a : Byte) : Byte := if raw then a &&& 0x80#8 else a >>> 7

/-- Result to Vx, then flag to VF: with x = 0xF VF holds the flag (R220). -/
def State.setResultAndFlag (s : State) (x : Nibble) (r f : Byte) : State :=
  (s.setReg x r).setReg vf f

end Sys2Proof.Machine
end

