-- ==== Sys2Proof/Machine/Alu.lean ====
section
/-! DEFINITION. Register and ALU instructions (spec/43_alu.md R220 to R232). All values are unsigned bytes,
results wrap modulo 256, and operands are read before any write (R220). -/

namespace Sys2Proof.Machine

/-- 6xnn (R221). -/
def execLdImm (x : Nibble) (nn : Byte) (s : State) : Host.Outcome State Fault Refusal :=
  .next (s.setReg x nn)

/-- 7xnn (R222): no carry flag. -/
def execAddImm (x : Nibble) (nn : Byte) (s : State) : Host.Outcome State Fault Refusal :=
  .next (s.setReg x (s.reg x + nn))

/-- 8xy0 (R223). -/
def execLdReg (x y : Nibble) (s : State) : Host.Outcome State Fault Refusal :=
  .next (s.setReg x (s.reg y))

/-- 8xy1 (R224). -/
def execOrReg (x y : Nibble) (s : State) : Host.Outcome State Fault Refusal :=
  .next (s.setReg x (s.reg x ||| s.reg y))

/-- 8xy2 (R225). -/
def execAndReg (x y : Nibble) (s : State) : Host.Outcome State Fault Refusal :=
  .next (s.setReg x (s.reg x &&& s.reg y))

/-- 8xy3 (R226). -/
def execXorReg (x y : Nibble) (s : State) : Host.Outcome State Fault Refusal :=
  .next (s.setReg x (s.reg x ^^^ s.reg y))

/-- 8xy4 (R227): VF is the carry. -/
def execAddReg (x y : Nibble) (s : State) : Host.Outcome State Fault Refusal :=
  .next (s.setResultAndFlag x (s.reg x + s.reg y) (flagByte (carryOf (s.reg x) (s.reg y))))

/-- 8xy5 (R228): VF is 1 when Vx is strictly greater. -/
def execSubReg (x y : Nibble) (s : State) : Host.Outcome State Fault Refusal :=
  .next (s.setResultAndFlag x (s.reg x - s.reg y) (flagByte (greaterOf (s.reg x) (s.reg y))))

/-- 8xy6 (R229): Vy is not read. -/
def execShr (x : Nibble) (s : State) : Host.Outcome State Fault Refusal :=
  .next (s.setResultAndFlag x (s.reg x >>> 1) (shiftedOutRight (s.reg x)))

/-- 8xy7 (R230): VF is 1 when Vy is strictly greater. -/
def execSubnReg (x y : Nibble) (s : State) : Host.Outcome State Fault Refusal :=
  .next (s.setResultAndFlag x (s.reg y - s.reg x) (flagByte (greaterOf (s.reg y) (s.reg x))))

/-- 8xyE (R231): Vy is not read; VF by SHL_VF_RAW. -/
def execShl (x : Nibble) (s : State) : Host.Outcome State Fault Refusal :=
  .next (s.setResultAndFlag x (s.reg x <<< 1) (shiftedOutLeft s.config.shlVfRaw (s.reg x)))

/-- Cxnn (R232): the byte is the host's answer in this call (log 7). -/
def execRnd (x : Nibble) (nn : Byte) (s : State) : Host.Outcome State Fault Refusal :=
  .next (s.setReg x (s.call.rand &&& nn))

end Sys2Proof.Machine
end

