-- ==== Sys2Proof/Machine/Display.lean ====
section
/-! DEFINITION. The display instructions 00E0 and Dxyn (spec/41_display.md R160 to R163). -/

namespace Sys2Proof.Machine

/-- The pixel at row y, column x (R46); false outside the screen. -/
def Display.get (d : Display) (y x : Nat) : Bool :=
  if h : y < 32 ∧ x < 64 then (d[y]'h.1)[x]'h.2 else false

/-- `DISP[y][x] <- b` (R46); nothing outside the screen. -/
def Display.set (d : Display) (y x : Nat) (b : Bool) : Display :=
  if h : y < 32 ∧ x < 64 then Vector.set d y (Vector.set (d[y]'h.1) x b h.2) h.1 else d

/-- The display with every pixel 0. -/
def Display.clear : Display := Vector.replicate 32 (Vector.replicate 64 false)

/-- A drawing in progress: the display, and whether a pixel has gone from 1 to 0. -/
structure Canvas where
  disp : Display
  hit : Bool
deriving DecidableEq, Repr

/-- One sprite bit at row y, column x (R161): a 1 erases a set pixel and collides, or sets a clear
one; a 0 leaves the pixel. -/
def drawPixel (k : Canvas) (y x : Nat) (bit : Bool) : Canvas :=
  if bit then
    if k.disp.get y x then Canvas.mk (k.disp.set y x false) true
    else Canvas.mk (k.disp.set y x true) k.hit
  else k

/-- The columns `8 - n` to 7 of one sprite row, clipped at the right edge (R161, R162). Bit 7 of the
row byte is the leftmost pixel (R163). -/
def drawRow (row : Byte) (y px : Nat) : Nat → Canvas → Canvas
  | 0, k => k
  | n + 1, k =>
    if 63 < px + (7 - n) then k
    else drawRow row y px n (drawPixel k y (px + (7 - n)) (row.getLsbD n))

/-- The sprite rows from row y of the display down, clipped at the bottom edge (R161, R162). -/
def drawRows (px : Nat) : List Byte → Nat → Canvas → Canvas
  | [], _, k => k
  | row :: rows, y, k =>
    if 31 < y then k else drawRows px rows (y + 1) (drawRow row y px 8 k)

/-- The effect of a sprite draw once its bytes are known to be in memory (R161): the start position
from Vx and Vy before VF is written, wrapped (D18), VF the collision, display_dirty set. -/
def State.drawSprite (s : State) (x y n : Nibble) : State :=
  let k := drawRows ((s.reg x).toNat % 64) (s.bytesFrom s.i.toNat n.toNat)
    ((s.reg y).toNat % 32) (Canvas.mk s.disp false)
  { s.setReg vf (flagByte k.hit) with disp := k.disp, displayDirty := true }

/-- 00E0 (R160). -/
def execCls (s : State) : Host.Outcome State Fault Refusal :=
  .next { s with disp := Display.clear, clearRequested := true }

/-- Dxyn (R161): the n sprite bytes are range-checked first (R74); with n = 0 none is read. -/
def execDrw (x y n : Nibble) (s : State) : Host.Outcome State Fault Refusal :=
  .next (s.checked s.i.toNat n.toNat (s.drawSprite x y n))

end Sys2Proof.Machine
end

