-- ==== Sys2Proof/Machine/Flow.lean ====
section
/-! DEFINITION. Control flow (spec/42_control_flow.md R181 to R189) and the two no-op rows
(spec/40_pipeline.md R133). On entry PC is already past the instruction (R131). -/

namespace Sys2Proof.Machine

/-- 00EE (R181): STACK_UNDERFLOW with no call outstanding. -/
def execRet (s : State) : Host.Outcome State Fault Refusal :=
  match s.pop? with
  | some (x, t) => .next (t.jumpTo x)
  | none => .next (s.raiseInstr .stackUnderflow none)

/-- 1nnn (R183). -/
def execJp (nnn : Addr12) (s : State) : Host.Outcome State Fault Refusal :=
  .next (s.jumpTo (zextAddr nnn))

/-- 2nnn (R182): pushes PC, the address of the next instruction; STACK_OVERFLOW with sixteen calls
outstanding. -/
def execCall (nnn : Addr12) (s : State) : Host.Outcome State Fault Refusal :=
  match s.push? s.pc with
  | some t => .next (t.jumpTo (zextAddr nnn))
  | none => .next (s.raiseInstr .stackOverflow none)

/-- 3xnn (R185). -/
def execSeImm (x : Nibble) (nn : Byte) (s : State) : Host.Outcome State Fault Refusal :=
  .next (s.skipIf (s.reg x == nn))

/-- 4xnn (R186). -/
def execSneImm (x : Nibble) (nn : Byte) (s : State) : Host.Outcome State Fault Refusal :=
  .next (s.skipIf (s.reg x != nn))

/-- 5xy0 (R187). -/
def execSeReg (x y : Nibble) (s : State) : Host.Outcome State Fault Refusal :=
  .next (s.skipIf (s.reg x == s.reg y))

/-- 9xy0 (R188). -/
def execSneReg (x y : Nibble) (s : State) : Host.Outcome State Fault Refusal :=
  .next (s.skipIf (s.reg x != s.reg y))

/-- Bnnn (R189): nnn plus V0, not reduced to 12 bits. -/
def execJpV0 (nnn : Addr12) (s : State) : Host.Outcome State Fault Refusal :=
  .next (s.jumpTo (zextAddr nnn + zextByte (s.reg 0#4)))

/-- 0nnn other than 00E0 and 00EE (R106, R133): nothing beyond the fetch. -/
def execNop0 (s : State) : Host.Outcome State Fault Refusal := .next s

/-- Any other unrecognized word (R133): nothing beyond the fetch. -/
def execNop (s : State) : Host.Outcome State Fault Refusal := .next s

end Sys2Proof.Machine
end

