-- ==== Sys2Proof/Machine/Index.lean ====
section
/-! DEFINITION. Index register and memory instructions (spec/44_index_memory.md R250 to R255). None of the
memory ones changes I. -/

namespace Sys2Proof.Machine

/-- Annn (R250). -/
def execLdI (nnn : Addr12) (s : State) : Host.Outcome State Fault Refusal :=
  .next (s.setI (zextAddr nnn))

/-- Fx1E (R251): modulo 2^16, VF not written. -/
def execAddI (x : Nibble) (s : State) : Host.Outcome State Fault Refusal :=
  .next (s.setI (s.i + zextByte (s.reg x)))

/-- Fx29 (R252): Vx is not masked to its low nibble. -/
def execLdF (x : Nibble) (s : State) : Host.Outcome State Fault Refusal :=
  .next (s.setI (zextByte (s.reg x) * 5#16))

/-- Hundreds, tens and ones of a byte (R253). -/
def decimalDigits (b : Byte) : List Byte :=
  [b / 100#8, b / 10#8 % 10#8, b % 10#8]

/-- Fx33 (R253). -/
def execLdB (x : Nibble) (s : State) : Host.Outcome State Fault Refusal :=
  .next (s.checked s.i.toNat 3 (s.storeBytes s.i.toNat (decimalDigits (s.reg x))))

/-- Fx55 (R254): V0..Vx inclusive. -/
def execStRegs (x : Nibble) (s : State) : Host.Outcome State Fault Refusal :=
  .next (s.checked s.i.toNat (x.toNat + 1) (s.storeBytes s.i.toNat (s.regsFrom 0 (x.toNat + 1))))

/-- Fx65 (R255): V0..Vx inclusive. -/
def execLdRegs (x : Nibble) (s : State) : Host.Outcome State Fault Refusal :=
  .next (s.checked s.i.toNat (x.toNat + 1) (s.loadRegs s.i.toNat (x.toNat + 1)))

end Sys2Proof.Machine
end

