-- ==== Sys2Proof/Machine/KeysTimers.lean ====
section
/-! DEFINITION. Key and timer instructions (spec/45_timers_input.md R280 to R286). -/

namespace Sys2Proof.Machine

/-- `key_held(k)`: the host's answer in this call. It is free for every k, 0x10 and above among them
(R332, D10, D25), so it does not depend on k by any rule (log 7). -/
def State.keyHeld (s : State) (_k : Byte) : Bool := s.call.held

/-- Ex9E (R280). -/
def execSkp (x : Nibble) (s : State) : Host.Outcome State Fault Refusal :=
  .next (s.skipIf (s.keyHeld (s.reg x)))

/-- ExA1 (R281). -/
def execSknp (x : Nibble) (s : State) : Host.Outcome State Fault Refusal :=
  .next (s.skipIf (!s.keyHeld (s.reg x)))

/-- Fx07 (R282). -/
def execLdVxDt (x : Nibble) (s : State) : Host.Outcome State Fault Refusal :=
  .next (s.setReg x s.dt)

/-- Fx0A (R283): the call stays suspended in the wait; the events that end it are in Machine/Cycle.lean. -/
def execLdVxK (x : Nibble) (s : State) : Host.Outcome State Fault Refusal :=
  .next { s with status := .waitingKey x s.call.now }

/-- Fx15 (R285): the timing marker does not move. -/
def execLdDtVx (x : Nibble) (s : State) : Host.Outcome State Fault Refusal :=
  .next { s with dt := s.reg x }

/-- Fx18 (R286): beep_active shows it from the next call on (R154). -/
def execLdStVx (x : Nibble) (s : State) : Host.Outcome State Fault Refusal :=
  .next { s with st := s.reg x }

end Sys2Proof.Machine
end

