-- ==== Sys2Proof/Machine/Cycle.lean ====
section
/-! DEFINITION. What stands around an instruction: the fetch (spec/40_pipeline.md R130, R131), the `cycle`
transaction with its two gates (R150 to R158), the events that end a key wait
(spec/45_timers_input.md R284), the host's turn, and construction (spec/70_reset_and_hazards.md R350). -/

namespace Sys2Proof.Machine

/-! ## The instruction step -/

/-- The word at PC: big-endian (R77, R131). -/
def State.fetchWord (s : State) : Word :=
  wordOfBytes (s.byteAt s.pc.toNat) (s.byteAt (s.pc.toNat + 1))

/-- The state an instruction executes in: PC advanced by 2 modulo 2^16 (R131), the instruction's
address and word kept for the fault record (R313). -/
def State.fetched (s : State) : State :=
  { s with pc := s.pc + 2#16, instrPc := s.pc, instrWord := s.fetchWord }

/-- Fetch, decode, execute (R130 to R134). FETCH_OUT_OF_RANGE if PC > 0xFFE, with PC not advanced. -/
def State.instruction (s : State) : Host.Outcome State Fault Refusal :=
  if 0xFFE < s.pc.toNat then .next (s.raise (FaultRecord.mk .fetchOutOfRange s.pc none none))
  else exec (decodeWord s.fetchWord) s.fetched

/-! ## The cycle transaction -/

/-- INSTRUCTION_PERIOD (R151). -/
def Config.instructionPeriod (c : Config) : Nat := nsPerSecond / c.ips

/-- The start of a call: its inputs are latched, and the two output flags are reset (R156). -/
def State.beginCall (s : State) (c : HostCall) : State :=
  { s with call := c, clearRequested := false, displayDirty := false }

/-- A timer one step toward zero, never below (R153). -/
def countDown (b : Byte) : Byte := if b = 0#8 then 0#8 else b - 1#8

/-- The timer gate at time `now` (R153): at most one decrement, and the marker moves to `now`. -/
def State.timerGate (s : State) (now : Nat) : State :=
  if timerPeriod ≤ now - s.lastTimerTick then
    { s with dt := countDown s.dt, st := countDown s.st, lastTimerTick := now }
  else s

/-- beep_active <- (ST ≠ 0) (R154). -/
def State.updateBeep (s : State) : State := { s with beepActive := s.st != 0#8 }

/-- The part of a call before its instruction gate (R150): flags, timer gate, beep (D12). -/
def State.callPrelude (s : State) (c : HostCall) : State :=
  ((s.beginCall c).timerGate c.now).updateBeep

/-- The end of a call whose instruction gate fired: the marker moves to `now` if the status is still
Running; in a wait the call stays suspended (R150, R284). -/
def State.endCall (s : State) (now : Nat) : State :=
  if s.status = .running then { s with lastInstructionTick := now } else s

/-- `endCall` on an outcome. -/
def endOutcome (now : Nat) : Host.Outcome State Fault Refusal → Host.Outcome State Fault Refusal
  | .next s => .next (s.endCall now)
  | .fault r => .fault r
  | .refused r => .refused r

/-- Whether the instruction gate opens at time `now` (R155). -/
def State.gateOpen (s : State) (now : Nat) : Bool :=
  decide (Config.instructionPeriod s.config ≤ now - s.lastInstructionTick)

/-- Whether `now` is below a timing marker (R157). -/
def State.timeRegresses (s : State) (now : Nat) : Bool :=
  decide (now < s.lastTimerTick ∨ now < s.lastInstructionTick)

/-- `cycle(now)` in status Running (R150). A call with a regressing time changes nothing but the
status (R157). At most one instruction executes (R155). -/
def State.cycle (s : State) (c : HostCall) : Host.Outcome State Fault Refusal :=
  if s.timeRegresses c.now then
    .next (s.raise (FaultRecord.mk .hostTimeRegression s.pc none (some c.now)))
  else if s.gateOpen c.now then endOutcome c.now (s.callPrelude c).instruction
  else .next (s.callPrelude c)

/-! ## The key wait -/

/-- `KeyDown(k)` in WaitingKey(x, t) (R284): it completes the suspended call of time t. -/
def State.keyRelease (s : State) (x : Nibble) (t : Nat) (k : Nibble) : State :=
  { s.setReg x (k.setWidth 8) with status := .running, lastInstructionTick := t }

/-- `Terminate` in WaitingKey (R284). -/
def State.terminate (s : State) : State := { s with status := .terminated }

/-! ## The host's turn -/

/-- What a host event does. In a status that does not accept it, it is no transaction and the state
stays (R158, R284, R330; log 6). -/
def State.accept (s : State) (e : HostEvent) : Host.Outcome State Fault Refusal :=
  match s.status, e with
  | .running, .cycle c => s.cycle c
  | .waitingKey x t, .keyDown k => .next (s.keyRelease x t k)
  | .waitingKey _ _, .terminate => .next s.terminate
  | _, _ => .next s

/-- What the host does next: the first listed event, or the free host's next turn (log 5). -/
def State.nextEvent (s : State) : Option HostEvent :=
  match s.host with
  | e :: _ => some e
  | [] => Config.hostEvent s.turn

/-- The state once that event is taken: the list or the turn counter moves on. -/
def State.tookEvent (s : State) : State :=
  match s.host with
  | _ :: es => { s with host := es }
  | [] => { s with turn := s.turn + 1 }

/-- One turn of the host. Faulted and Terminated are permanent: no transaction is taken and the
machine stops (R158, R311; log 8, log 9). A turn at which the host does nothing changes nothing: the
wait of Fx0A has no time-out (R284). -/
def State.hostTurn (s : State) : Host.Outcome State Fault Refusal :=
  match s.status with
  | .faulted r => .fault (.faulted r)
  | .terminated => .fault .terminated
  | _ =>
    match s.nextEvent with
    | some e => s.tookEvent.accept e
    | none => .next s.tookEvent

/-! ## Construction, and placing an instruction -/

/-- `construct(ROM, IPS, T0)` (R350): refused, with no machine, for IPS = 0 or an oversized ROM (R351). -/
def construct (c : Config) : Except Refusal State :=
  if c.ips = 0 then .error .zeroRate
  else if maxRom < c.rom.length then .error .romTooLong
  else .ok (State.initial c)

/-- The earliest time at which a call executes an instruction. -/
def State.earliestCall (s : State) : Nat :=
  max s.lastTimerTick (s.lastInstructionTick + Config.instructionPeriod s.config)

/-- The state with a call that executes an instruction put before the other host events. The answers of
that call are those of the last one. -/
def State.callAtOnce (s : State) : State :=
  { s with host := .cycle { s.call with now := s.earliestCall } :: s.host }

end Sys2Proof.Machine
end

