-- ==== Sys2Proof/Machine/Step.lean ====
section
/-! DEFINITION. One step of the machine: one turn of the host (Machine/Cycle.lean). -/

namespace Sys2Proof.Machine

/-- One step: the host's next transaction, if it makes one (spec/60_exceptions.md R330, R331; log 5). -/
def step (s : State) : Host.Outcome State Fault Refusal := s.hostTurn

/-- `s` with the word `w` stored big-endian at PC, in status Running, and a `cycle` call pending whose
instruction gate opens, so that the next step fetches and runs it (log 11). -/
def State.withFetchWord (s : State) (_nbits w : Nat) : State :=
  { ((s.setByte s.pc.toNat (highByte (BitVec.ofNat 16 w))).setByte (s.pc.toNat + 1)
      (lowByte (BitVec.ofNat 16 w))).callAtOnce with status := .running }

end Sys2Proof.Machine
end

