-- ==== Sys2Proof/Safety.lean ====
section
/-! DEFINITION. The terms claims use: the invariant of the machine, and what a safe run is. -/

namespace Sys2Proof.Machine

/-- The fault record of a Faulted machine is one that R312 and R313 allow, and the machine's PC is the one
R314 gives: past the faulting instruction, or unmoved if the fetch or the call itself faulted. -/
def FaultRecord.fits (r : FaultRecord) (pc : Word) : Prop :=
  match r.code with
  | .fetchOutOfRange =>
    0xFFE < r.pc.toNat ∧ pc = r.pc ∧ r.word = none ∧ r.detail = none
  | .memOutOfRange =>
    pc = r.pc + 2#16 ∧ r.word.isSome = true ∧ ∃ a, r.detail = some a ∧ 0xFFF < a
  | .stackOverflow => pc = r.pc + 2#16 ∧ r.word.isSome = true ∧ r.detail = none
  | .stackUnderflow => pc = r.pc + 2#16 ∧ r.word.isSome = true ∧ r.detail = none
  | .hostTimeRegression => pc = r.pc ∧ r.word = none ∧ r.detail.isSome = true

/-- What every step keeps: the memory is canonical (log 13), PC stays in the range R35 derives and every
stack slot holds a return address of at most 0x1000, the outputs of one call are those of one
instruction (R156), a suspended call is not older than the timer marker and at least one instruction
period younger than the last instruction (R284, R159), and a fault record fits. -/
structure State.Inv (s : State) : Prop where
  config_wf : s.config.wf = true
  mem_wf : Memory.wf s.config s.mem = true
  pc_le : s.pc.toNat ≤ 0x10FE
  stack_le : ∀ k (h : k < 16), s.stack[k].toNat ≤ 0x1000
  one_output : ¬ (s.clearRequested = true ∧ s.displayDirty = true)
  wait_time : ∀ x t, s.status = .waitingKey x t →
    s.lastTimerTick ≤ t ∧ s.lastInstructionTick + Config.instructionPeriod s.config ≤ t
  record_fits : ∀ r, s.status = .faulted r → r.fits s.pc

/-- The machine has not met a fatal condition (R311). -/
def State.notFaulted (s : State) : Prop := ∀ r, s.status ≠ .faulted r

/-- A run of `n` steps from `s` is safe: it reaches a state, and that state is not Faulted (R311, R340). -/
def RunsSafely (n : Nat) (s : State) : Prop :=
  ∃ t, Sys2Proof.core.run n s = .next t ∧ State.notFaulted t

/-- The state an outcome carries, if it is a next state: for tests that look at one field. -/
def nextState? : Host.Outcome State Fault Refusal → Option State
  | .next s => some s
  | .fault _ => none
  | .refused _ => none

end Sys2Proof.Machine
end

