-- ==== Sys2Proof/Certificates/Slice0/Obligations.lean ====
section
/-! DEFINITION. The statements for the provers. First the words they are written in (what stays the same),
then the statements by the spec's files. Each docstring names the rules it formalises. -/

namespace Sys2Proof.Machine

/-! ## What stays the same -/

/-- Every general register but those of `w` is as before. -/
def keepsRegsBut (s t : State) (w : Nibble → Prop) : Prop := ∀ j, ¬ w j → t.reg j = s.reg j

/-- Every general register is as before. -/
def keepsRegs (s t : State) : Prop := ∀ j, t.reg j = s.reg j

/-- Every byte of memory reads as before. -/
def keepsMemory (s t : State) : Prop := ∀ a, t.byteAt a = s.byteAt a

/-- Every byte of memory outside the `len` bytes at `base` reads as before. -/
def keepsMemoryOutside (s t : State) (base len : Nat) : Prop :=
  ∀ a, ¬ (base ≤ a ∧ a < base + len) → t.byteAt a = s.byteAt a

/-- Every pixel is as before. -/
def keepsDisplay (s t : State) : Prop := ∀ y x, t.disp.get y x = s.disp.get y x

/-- SP and every stack slot are as before. -/
def keepsStack (s t : State) : Prop := t.sp = s.sp ∧ ∀ k : Fin 16, t.stack[k] = s.stack[k]

/-- Both timers are as before. -/
def keepsTimers (s t : State) : Prop := t.dt = s.dt ∧ t.st = s.st

/-- The three outputs are as before. -/
def keepsOutputs (s t : State) : Prop :=
  t.clearRequested = s.clearRequested ∧ t.displayDirty = s.displayDirty ∧ t.beepActive = s.beepActive

/-- The timing markers, the configuration, the host's side and the latches are as before. -/
def keepsSystem (s t : State) : Prop :=
  t.lastTimerTick = s.lastTimerTick ∧ t.lastInstructionTick = s.lastInstructionTick ∧
  t.config = s.config ∧ t.call = s.call ∧ t.host = s.host ∧ t.turn = s.turn ∧
  t.instrPc = s.instrPc ∧ t.instrWord = s.instrWord

/-- Everything but PC, I, the status and the general registers is as before. -/
def keepsRest (s t : State) : Prop :=
  keepsMemory s t ∧ keepsDisplay s t ∧ keepsStack s t ∧ keepsTimers s t ∧ keepsOutputs s t ∧
  keepsSystem s t

/-- An instruction that writes general registers only: those of `w` may change, PC included nothing
else does. -/
def writesRegsOnly (s t : State) (w : Nibble → Prop) : Prop :=
  keepsRegsBut s t w ∧ t.pc = s.pc ∧ t.i = s.i ∧ t.status = s.status ∧ keepsRest s t

/-- An instruction that writes PC only. -/
def writesPcOnly (s t : State) : Prop :=
  keepsRegs s t ∧ t.i = s.i ∧ t.status = s.status ∧ keepsRest s t

/-- A Running machine whose host's next transaction is `cycle(c)`, with `es` to follow. -/
def calledWith (s : State) (c : HostCall) (es : List HostEvent) : Prop :=
  s.status = .running ∧ s.host = .cycle c :: es

/-- The time of the call is below neither timing marker (R157). -/
def timeOk (s : State) (c : HostCall) : Prop := s.lastTimerTick ≤ c.now ∧ s.lastInstructionTick ≤ c.now

/-- The call executes an instruction: the time is right, an instruction period has passed (R155). -/
def executesIn (s : State) (c : HostCall) : Prop :=
  timeOk s c ∧ 1000000000 / s.config.ips ≤ c.now - s.lastInstructionTick

/-- After a call at time `now` whose instruction wrote no timer and no output: the timers and the timer marker are
those the timer gate leaves, both event outputs are reset, beep_active is whether ST is nonzero (R153, R154,
R156). -/
def preludeOnly (s t : State) (now : Nat) : Prop :=
  keepsTimers (s.timerGate now) t ∧ t.lastTimerTick = (s.timerGate now).lastTimerTick ∧
  t.clearRequested = false ∧ t.displayDirty = false ∧ (t.beepActive = true ↔ t.st ≠ 0#8)

/-- The sprite of `n` rows at I, drawn with its top left corner at row py, column px, has a 1 bit on row y,
column x: bit 7 of row byte r is at column px, bit 0 at px + 7, of row py + r (R161, R163). -/
def spriteDot (s : State) (n py px y x : Nat) : Prop :=
  py ≤ y ∧ y < py + n ∧ px ≤ x ∧ x ≤ px + 7 ∧
  (s.byteAt (s.i.toNat + (y - py))).getLsbD (7 - (x - px)) = true

/-- The list of unrecognized words of R105, by arithmetic on the word. -/
def listedUnrecognized (w : Word) : Prop :=
  (w.toNat / 4096 = 0x0 ∧ w.toNat ≠ 0x00E0 ∧ w.toNat ≠ 0x00EE) ∨
  (w.toNat / 4096 = 0x5 ∧ w.toNat % 16 ≠ 0) ∨
  (w.toNat / 4096 = 0x8 ∧
    (w.toNat % 16 = 0x8 ∨ w.toNat % 16 = 0x9 ∨ w.toNat % 16 = 0xA ∨ w.toNat % 16 = 0xB ∨
     w.toNat % 16 = 0xC ∨ w.toNat % 16 = 0xD ∨ w.toNat % 16 = 0xF)) ∨
  (w.toNat / 4096 = 0x9 ∧ w.toNat % 16 ≠ 0) ∨
  (w.toNat / 4096 = 0xE ∧ w.toNat % 256 ≠ 0x9E ∧ w.toNat % 256 ≠ 0xA1) ∨
  (w.toNat / 4096 = 0xF ∧ w.toNat % 256 ≠ 0x07 ∧ w.toNat % 256 ≠ 0x0A ∧ w.toNat % 256 ≠ 0x15 ∧
    w.toNat % 256 ≠ 0x18 ∧ w.toNat % 256 ≠ 0x1E ∧ w.toNat % 256 ≠ 0x29 ∧
    w.toNat % 256 ≠ 0x33 ∧ w.toNat % 256 ≠ 0x55 ∧ w.toNat % 256 ≠ 0x65)

end Sys2Proof.Machine

open Sys2Proof Sys2Proof.Machine

/-! ## 30_encoding -/

/-- R101, R102: no bit of an encoding is dropped: decoding the bytes of a well-formed instruction, whatever
follows them, gives the instruction and what follows. -/
def Obligations.DecodeOfEncodeIsTheInstruction : Prop :=
  ∀ (i : Instr) (rest : List Byte), i.wf = true → decode (encode i ++ rest) = .ok (i, rest)

/-- R107: every word decodes to a well-formed instruction that encodes back to it. -/
def Obligations.EncodeOfDecodeIsTheWord : Prop :=
  ∀ w : Word, (decodeWord w).wf = true ∧ encodeWord (decodeWord w) = w

/-- R103, R104: words written out from the patterns decode to the instructions they stand for. -/
def Obligations.WrittenOutWordsDecode : Prop :=
  decodeWord 0x00E0#16 = .cls ∧ decodeWord 0x2ABC#16 = .call 0xABC#12 ∧
  decodeWord 0x6AFA#16 = .ldImm 0xA#4 0xFA#8 ∧ decodeWord 0x8AB4#16 = .addReg 0xA#4 0xB#4 ∧
  decodeWord 0xD125#16 = .drw 0x1#4 0x2#4 0x5#4 ∧ decodeWord 0xE5A1#16 = .sknp 0x5#4 ∧
  decodeWord 0xF265#16 = .ldRegs 0x2#4 ∧ decodeWord 0x5001#16 = .nop 0x5001#16

/-- R105, R106: the words that decode to a no-op are exactly the listed ones, and such a word executes as a
no-op: no error, no fault, no effect. -/
def Obligations.UnrecognizedWordsAreTheListedOnes : Prop :=
  ∀ w : Word,
    (((∃ nnn, decodeWord w = .nop0 nnn) ∨ decodeWord w = .nop w) ↔ listedUnrecognized w) ∧
    (listedUnrecognized w → ∀ s : State, exec (decodeWord w) s = .next s)

/-! ## 43_alu -/

/-- R221, R222: LD Vx, nn loads nn; ADD Vx, nn adds modulo 256 with no carry flag (with x = 0xF VF is
written as a register; otherwise VF is among the registers left alone). -/
def Obligations.ImmediateLoadsAndAdds : Prop :=
  ∀ (x : Nibble) (nn : Byte) (s : State),
    (∃ t, exec (.ldImm x nn) s = .next t ∧ t.reg x = nn ∧ writesRegsOnly s t (· = x)) ∧
    (∃ t, exec (.addImm x nn) s = .next t ∧
      (t.reg x).toNat = ((s.reg x).toNat + nn.toNat) % 256 ∧ writesRegsOnly s t (· = x))

/-- R223 to R226: copy, OR, AND and XOR, bit by bit; VF is not a flag of theirs. -/
def Obligations.CopyAndLogicResults : Prop :=
  ∀ (x y : Nibble) (s : State),
    (∃ t, exec (.ldReg x y) s = .next t ∧ t.reg x = s.reg y ∧ writesRegsOnly s t (· = x)) ∧
    (∃ t, exec (.orReg x y) s = .next t ∧ writesRegsOnly s t (· = x) ∧
      ∀ k, k < 8 → (t.reg x).getLsbD k = ((s.reg x).getLsbD k || (s.reg y).getLsbD k)) ∧
    (∃ t, exec (.andReg x y) s = .next t ∧ writesRegsOnly s t (· = x) ∧
      ∀ k, k < 8 → (t.reg x).getLsbD k = ((s.reg x).getLsbD k && (s.reg y).getLsbD k)) ∧
    (∃ t, exec (.xorReg x y) s = .next t ∧ writesRegsOnly s t (· = x) ∧
      ∀ k, k < 8 → (t.reg x).getLsbD k = ((s.reg x).getLsbD k ^^ (s.reg y).getLsbD k))

/-- R227: ADD Vx, Vy: the sum modulo 256, and VF 1 exactly when the sum exceeds 255; with x = 0xF VF is the
carry. -/
def Obligations.AddRegisterSumAndCarry : Prop :=
  ∀ (x y : Nibble) (s : State), ∃ t, exec (.addReg x y) s = .next t ∧
    (x ≠ 0xF#4 → (t.reg x).toNat = ((s.reg x).toNat + (s.reg y).toNat) % 256) ∧
    (t.reg 0xF#4).toNat = (if (s.reg x).toNat + (s.reg y).toNat > 255 then 1 else 0) ∧
    writesRegsOnly s t (fun j => j = x ∨ j = 0xF#4)

/-- R228, R230: SUB and SUBN: the difference modulo 256, and VF 1 exactly when the minuend is strictly
greater; with x = 0xF VF is the flag. -/
def Obligations.SubtractionsAndTheirFlag : Prop :=
  ∀ (x y : Nibble) (s : State),
    (∃ t, exec (.subReg x y) s = .next t ∧
      (x ≠ 0xF#4 → (t.reg x).toNat = ((s.reg x).toNat + 256 - (s.reg y).toNat) % 256) ∧
      (t.reg 0xF#4).toNat = (if (s.reg x).toNat > (s.reg y).toNat then 1 else 0) ∧
      writesRegsOnly s t (fun j => j = x ∨ j = 0xF#4)) ∧
    (∃ t, exec (.subnReg x y) s = .next t ∧
      (x ≠ 0xF#4 → (t.reg x).toNat = ((s.reg y).toNat + 256 - (s.reg x).toNat) % 256) ∧
      (t.reg 0xF#4).toNat = (if (s.reg y).toNat > (s.reg x).toNat then 1 else 0) ∧
      writesRegsOnly s t (fun j => j = x ∨ j = 0xF#4))

/-- R229: SHR halves, VF is the bit shifted out, whatever y is. -/
def Obligations.ShiftRightAndTheBitShiftedOut : Prop :=
  ∀ (x y : Nibble) (s : State), ∃ t, exec (.shr x y) s = .next t ∧
    (x ≠ 0xF#4 → (t.reg x).toNat = (s.reg x).toNat / 2) ∧
    (t.reg 0xF#4).toNat = (s.reg x).toNat % 2 ∧
    writesRegsOnly s t (fun j => j = x ∨ j = 0xF#4)

/-- SHL doubles modulo 256, VF is the bit shifted out, as 0 or 1 or, when SHL_VF_RAW, as 0x00 or 0x80, whatever
y is (R231). The two settings are the spec's own decision D7 (log 4); it holds for both. -/
def Obligations.ShiftLeftAndTheBitShiftedOut : Prop :=
  ∀ (x y : Nibble) (s : State), ∃ t, exec (.shl x y) s = .next t ∧
    (x ≠ 0xF#4 → (t.reg x).toNat = (s.reg x).toNat * 2 % 256) ∧
    (t.reg 0xF#4).toNat =
      (if s.config.shlVfRaw = true then (s.reg x).toNat / 128 * 128 else (s.reg x).toNat / 128) ∧
    writesRegsOnly s t (fun j => j = x ∨ j = 0xF#4)

/-- RND: each bit of Vx is the drawn byte's where nn has a 1, else 0 (R232). It holds for every byte the host
draws (the free draw is the spec's decision D26, log 7). -/
def Obligations.RandomByteIsMasked : Prop :=
  ∀ (x : Nibble) (nn : Byte) (s : State), ∃ t, exec (.rnd x nn) s = .next t ∧
    (∀ k, k < 8 → (t.reg x).getLsbD k = (s.call.rand.getLsbD k && nn.getLsbD k)) ∧
    writesRegsOnly s t (· = x)

/-! ## 42_control_flow -/

/-- R183: JP nnn goes to nnn and does nothing else. -/
def Obligations.JumpGoesToItsTarget : Prop :=
  ∀ (nnn : Addr12) (s : State), ∃ t, exec (.jp nnn) s = .next t ∧
    t.pc.toNat = nnn.toNat ∧ writesPcOnly s t

/-- JP V0, nnn goes to nnn plus V0 with no reduction to 12 bits, which the spec marks as its own inference
(R189: "PC is unsigned 16-bit and the table applies no mask"). -/
def Obligations.ComputedJumpAddsV0 : Prop :=
  ∀ (nnn : Addr12) (s : State), ∃ t, exec (.jpV0 nnn) s = .next t ∧
    t.pc.toNat = nnn.toNat + (s.reg 0x0#4).toNat ∧ writesPcOnly s t

/-- The four register skips: PC a further 2 (modulo 2^16) exactly when the comparison holds (R184 to R188; that a
skip is 2 bytes is the spec's own inference in R184, the width its decision D3). -/
def Obligations.ComparisonSkips : Prop :=
  ∀ (x y : Nibble) (nn : Byte) (s : State),
    (∃ t, exec (.seImm x nn) s = .next t ∧ writesPcOnly s t ∧
      t.pc.toNat = (if (s.reg x).toNat = nn.toNat then (s.pc.toNat + 2) % 65536 else s.pc.toNat)) ∧
    (∃ t, exec (.sneImm x nn) s = .next t ∧ writesPcOnly s t ∧
      t.pc.toNat = (if (s.reg x).toNat = nn.toNat then s.pc.toNat else (s.pc.toNat + 2) % 65536)) ∧
    (∃ t, exec (.seReg x y) s = .next t ∧ writesPcOnly s t ∧
      t.pc.toNat =
        (if (s.reg x).toNat = (s.reg y).toNat then (s.pc.toNat + 2) % 65536 else s.pc.toNat)) ∧
    (∃ t, exec (.sneReg x y) s = .next t ∧ writesPcOnly s t ∧
      t.pc.toNat =
        (if (s.reg x).toNat = (s.reg y).toNat then s.pc.toNat else (s.pc.toNat + 2) % 65536))

/-- CALL with a free slot: the return address is pushed, SP moves up, PC is nnn; I and every register stay
(R182, R180; the order of write and increment is the spec's decision D6). -/
def Obligations.CallPushesTheReturnAddress : Prop :=
  ∀ (nnn : Addr12) (s : State) (k : Fin 16), s.sp.val = k.val →
    ∃ t, exec (.call nnn) s = .next t ∧
      t.stack[k] = s.pc ∧ (∀ j : Fin 16, j ≠ k → t.stack[j] = s.stack[j]) ∧
      t.sp.val = s.sp.val + 1 ∧ t.pc.toNat = nnn.toNat ∧
      keepsRegs s t ∧ t.i = s.i ∧ t.status = s.status ∧ keepsMemory s t ∧ keepsDisplay s t ∧
      keepsTimers s t ∧ keepsOutputs s t ∧ keepsSystem s t

/-- RET with a call outstanding: PC is the last pushed address, SP moves down, the slot keeps its value (R181,
R180; that the slot keeps its value is the spec's decision D6). -/
def Obligations.ReturnPopsTheReturnAddress : Prop :=
  ∀ (s : State) (k : Fin 16), s.sp.val = k.val + 1 →
    ∃ t, exec .ret s = .next t ∧
      t.pc = s.stack[k] ∧ t.sp.val = k.val ∧ (∀ j : Fin 16, t.stack[j] = s.stack[j]) ∧
      keepsRegs s t ∧ t.i = s.i ∧ t.status = s.status ∧ keepsMemory s t ∧ keepsDisplay s t ∧
      keepsTimers s t ∧ keepsOutputs s t ∧ keepsSystem s t

/-- A call at SP = 16 and a return at SP = 0 raise their fault and do nothing else: the record has the code, the
instruction's address and word, and no detail (R180 to R182, R311, R313). The faults are the spec's decisions
D5 and D21; that a raised fault is a next state is log 8. -/
def Obligations.StackFaultsDoNothingElse : Prop :=
  (∀ (nnn : Addr12) (s : State), s.sp.val = 16 →
    exec (.call nnn) s = .next { s with
      status := .faulted (FaultRecord.mk .stackOverflow s.instrPc (some s.instrWord) none) }) ∧
  (∀ s : State, s.sp.val = 0 →
    exec .ret s = .next { s with
      status := .faulted (FaultRecord.mk .stackUnderflow s.instrPc (some s.instrWord) none) })

/-- A call and then a return come back to the state before, but for the stack slot used (R180 to R182; that both
complete with a free slot is the spec's decisions D5 and D6). -/
def Obligations.CallThenReturnComesBack : Prop :=
  ∀ (nnn : Addr12) (s : State), s.sp.val < 16 →
    ∃ t u, exec (.call nnn) s = .next t ∧ exec .ret t = .next u ∧
      u.pc = s.pc ∧ u.sp = s.sp ∧ (∀ j : Fin 16, j.val ≠ s.sp.val → u.stack[j] = s.stack[j]) ∧
      keepsRegs s u ∧ u.i = s.i ∧ u.status = s.status ∧ keepsMemory s u ∧ keepsDisplay s u ∧
      keepsTimers s u ∧ keepsOutputs s u ∧ keepsSystem s u

/-! ## 44_index_memory -/

/-- R250, R252: LD I loads nnn, LD F Vx times 5, not masked; nothing else changes. -/
def Obligations.IndexLoads : Prop :=
  ∀ (nnn : Addr12) (x : Nibble) (s : State),
    (∃ t, exec (.ldI nnn) s = .next t ∧ t.i.toNat = nnn.toNat ∧
      keepsRegs s t ∧ t.pc = s.pc ∧ t.status = s.status ∧ keepsRest s t) ∧
    (∃ t, exec (.ldF x) s = .next t ∧ t.i.toNat = (s.reg x).toNat * 5 ∧
      keepsRegs s t ∧ t.pc = s.pc ∧ t.status = s.status ∧ keepsRest s t)

/-- ADD I, Vx adds modulo 2^16, with no fault and VF not written (R251; the wrap past 0xFFFF is the spec's
decision D8, log 16). -/
def Obligations.IndexAdditionWraps : Prop :=
  ∀ (x : Nibble) (s : State), ∃ t, exec (.addI x) s = .next t ∧
    t.i.toNat = (s.i.toNat + (s.reg x).toNat) % 65536 ∧
    keepsRegs s t ∧ t.pc = s.pc ∧ t.status = s.status ∧ keepsRest s t

/-- LD B stores the three decimal digits of Vx at I, I+1, I+2, and no other byte (R253; the range condition is the
spec's decision D4). -/
def Obligations.DecimalDigitsAreStored : Prop :=
  ∀ (x : Nibble) (s : State), s.mem.wf s.config = true → s.i.toNat + 2 ≤ 0xFFF →
    ∃ t, exec (.ldB x) s = .next t ∧
      (t.byteAt s.i.toNat).toNat = (s.reg x).toNat / 100 ∧
      (t.byteAt (s.i.toNat + 1)).toNat = (s.reg x).toNat / 10 % 10 ∧
      (t.byteAt (s.i.toNat + 2)).toNat = (s.reg x).toNat % 10 ∧
      keepsMemoryOutside s t s.i.toNat 3 ∧
      keepsRegs s t ∧ t.pc = s.pc ∧ t.i = s.i ∧ t.status = s.status ∧ keepsDisplay s t ∧
      keepsStack s t ∧ keepsTimers s t ∧ keepsOutputs s t ∧ keepsSystem s t

/-- LD [I], Vx stores V0..Vx at I on, and no other byte; I stays (R254; the range condition is decision D4). -/
def Obligations.RegistersAreStored : Prop :=
  ∀ (x : Nibble) (s : State), s.mem.wf s.config = true → s.i.toNat + x.toNat ≤ 0xFFF →
    ∃ t, exec (.stRegs x) s = .next t ∧
      (∀ j : Nibble, j.toNat ≤ x.toNat → t.byteAt (s.i.toNat + j.toNat) = s.reg j) ∧
      keepsMemoryOutside s t s.i.toNat (x.toNat + 1) ∧
      keepsRegs s t ∧ t.pc = s.pc ∧ t.i = s.i ∧ t.status = s.status ∧ keepsDisplay s t ∧
      keepsStack s t ∧ keepsTimers s t ∧ keepsOutputs s t ∧ keepsSystem s t

/-- LD Vx, [I] loads V0..Vx from I on, and no other register; I and memory stay (R255; the range condition is
decision D4). -/
def Obligations.RegistersAreLoaded : Prop :=
  ∀ (x : Nibble) (s : State), s.i.toNat + x.toNat ≤ 0xFFF →
    ∃ t, exec (.ldRegs x) s = .next t ∧
      (∀ j : Nibble, j.toNat ≤ x.toNat → t.reg j = s.byteAt (s.i.toNat + j.toNat)) ∧
      writesRegsOnly s t (fun j => j.toNat ≤ x.toNat)

/-- A range whose last address is above 0xFFF raises MEM_OUT_OF_RANGE with the first address above 0xFFF, and nothing
else changes (R74 with R161, R253, R254, R255). The fault is the spec's decision D4 (and D18 for the bytes of
clipped rows); that a raised fault is a next state is log 8. -/
def Obligations.RangeFaultsHaveNoEffect : Prop :=
  ∀ (i : Instr) (s : State) (len : Nat),
    ((∃ x y n, i = .drw x y n ∧ len = n.toNat) ∨ (∃ x, i = .ldB x ∧ len = 3) ∨
      (∃ x, i = .stRegs x ∧ len = x.toNat + 1) ∨ (∃ x, i = .ldRegs x ∧ len = x.toNat + 1)) →
    0 < len → 0xFFF < s.i.toNat + len - 1 →
    exec i s = .next { s with
      status := .faulted (FaultRecord.mk .memOutOfRange s.instrPc (some s.instrWord)
        (some (if s.i.toNat ≤ 0xFFF then 0x1000 else s.i.toNat))) }

/-! ## 41_display -/

/-- R160: CLS zeroes every pixel and sets clear_requested. -/
def Obligations.ClearZeroesEveryPixel : Prop :=
  ∀ s : State, ∃ t, exec .cls s = .next t ∧
    (∀ y x, t.disp.get y x = false) ∧ t.clearRequested = true ∧ t.displayDirty = s.displayDirty ∧
    t.beepActive = s.beepActive ∧ keepsRegs s t ∧ t.pc = s.pc ∧ t.i = s.i ∧ t.status = s.status ∧
    keepsMemory s t ∧ keepsStack s t ∧ keepsTimers s t ∧ keepsSystem s t

/-- DRW with its sprite in memory: a pixel of the screen flips exactly where the sprite, at the wrapped start
position and clipped at the edges, has a 1 bit; VF is 1 if a set pixel was hit, else 0; display_dirty is set;
nothing else changes (R161, R162, R163). The spec's own decisions in it: the clip boundary D17 (log 14), the
bit order D34 (log 15), coordinates before the VF reset D18 (log 16), the range D4. -/
def Obligations.SpriteFlipsPixelsAndCollides : Prop :=
  ∀ (x y n : Nibble) (s : State), s.i.toNat + n.toNat ≤ 0x1000 ∨ n = 0#4 →
    ∃ t, exec (.drw x y n) s = .next t ∧
      (∀ r c, r < 32 → c < 64 →
        (t.disp.get r c = true ↔
          ¬ (s.disp.get r c = true ↔
            spriteDot s n.toNat ((s.reg y).toNat % 32) ((s.reg x).toNat % 64) r c))) ∧
      (((∃ r c, r < 32 ∧ c < 64 ∧ s.disp.get r c = true ∧
          spriteDot s n.toNat ((s.reg y).toNat % 32) ((s.reg x).toNat % 64) r c) ∧
        t.reg 0xF#4 = 1#8) ∨
       ((¬ ∃ r c, r < 32 ∧ c < 64 ∧ s.disp.get r c = true ∧
          spriteDot s n.toNat ((s.reg y).toNat % 32) ((s.reg x).toNat % 64) r c) ∧
        t.reg 0xF#4 = 0#8)) ∧
      t.displayDirty = true ∧ t.clearRequested = s.clearRequested ∧ t.beepActive = s.beepActive ∧
      keepsRegsBut s t (· = 0xF#4) ∧ t.pc = s.pc ∧ t.i = s.i ∧ t.status = s.status ∧
      keepsMemory s t ∧ keepsStack s t ∧ keepsTimers s t ∧ keepsSystem s t

/-- Drawing the same sprite twice at the same place restores every pixel (the XOR of R161), whatever was on
the display, clipped or not. The coordinates must not be in VF, which the first draw writes. The range is the
spec's decision D4. -/
def Obligations.DrawingTwiceRestoresTheDisplay : Prop :=
  ∀ (x y n : Nibble) (s : State), x ≠ 0xF#4 → y ≠ 0xF#4 →
    s.i.toNat + n.toNat ≤ 0x1000 ∨ n = 0#4 →
    ∃ t u, exec (.drw x y n) s = .next t ∧ exec (.drw x y n) t = .next u ∧ u.disp = s.disp

/-! ## 45_timers_input -/

/-- SKP skips when the host answers held, SKNP when it answers not held (R280, R281). They hold for every answer
and every Vx, 0x10 and above among them (the free answer is the spec's decisions D10 and D25, log 7). That a skip
is 2 bytes is the spec's own inference in R184, the width its decision D3. -/
def Obligations.KeySkips : Prop :=
  ∀ (x : Nibble) (s : State),
    (∃ t, exec (.skp x) s = .next t ∧ writesPcOnly s t ∧
      t.pc.toNat = (if s.call.held = true then (s.pc.toNat + 2) % 65536 else s.pc.toNat)) ∧
    (∃ t, exec (.sknp x) s = .next t ∧ writesPcOnly s t ∧
      t.pc.toNat = (if s.call.held = true then s.pc.toNat else (s.pc.toNat + 2) % 65536))

/-- Reading DT, writing DT, writing ST; the timing markers and the outputs do not move (R282, R285, R286). That Fx18
leaves beep_active as it was until the next call is the spec's decision D13 (log 16). -/
def Obligations.TimerTransfers : Prop :=
  ∀ (x : Nibble) (s : State),
    (∃ t, exec (.ldVxDt x) s = .next t ∧ t.reg x = s.dt ∧ writesRegsOnly s t (· = x)) ∧
    (∃ t, exec (.ldDtVx x) s = .next t ∧ t.dt = s.reg x ∧ t.st = s.st ∧
      keepsRegs s t ∧ t.pc = s.pc ∧ t.i = s.i ∧ t.status = s.status ∧ keepsMemory s t ∧
      keepsDisplay s t ∧ keepsStack s t ∧ keepsOutputs s t ∧ keepsSystem s t) ∧
    (∃ t, exec (.ldStVx x) s = .next t ∧ t.st = s.reg x ∧ t.dt = s.dt ∧
      keepsRegs s t ∧ t.pc = s.pc ∧ t.i = s.i ∧ t.status = s.status ∧ keepsMemory s t ∧
      keepsDisplay s t ∧ keepsStack s t ∧ keepsOutputs s t ∧ keepsSystem s t)

/-- LD Vx, K suspends the call: the status is WaitingKey with x and the call's time, and nothing else changes.
This is the instruction's whole effect in its own step (R283; the wait is the spec's decision D11); Vx is written
when the key comes (KeyWaitEnds). -/
def Obligations.KeyWaitBegins : Prop :=
  ∀ (x : Nibble) (s : State), ∃ t, exec (.ldVxK x) s = .next t ∧
    t.status = .waitingKey x s.call.now ∧ keepsRegs s t ∧ t.pc = s.pc ∧ t.i = s.i ∧ keepsRest s t

/-- In WaitingKey a key-down writes its value to Vx, makes the core Running and completes the suspended call; a
termination makes it Terminated and changes nothing else (R284; the spec's decisions D11 and D32). -/
def Obligations.KeyWaitEnds : Prop :=
  ∀ (s : State) (x : Nibble) (u : Nat) (es : List HostEvent), s.status = .waitingKey x u →
    (∀ k : Nibble, s.host = .keyDown k :: es →
      ∃ t, step s = .next t ∧ t.status = .running ∧ (t.reg x).toNat = k.toNat ∧
        t.lastInstructionTick = u ∧ t.lastTimerTick = s.lastTimerTick ∧
        keepsRegsBut s t (· = x) ∧ t.pc = s.pc ∧ t.i = s.i ∧ keepsMemory s t ∧ keepsDisplay s t ∧
        keepsStack s t ∧ keepsTimers s t ∧ keepsOutputs s t) ∧
    (s.host = .terminate :: es →
      ∃ t, step s = .next t ∧ t.status = .terminated ∧
        t.lastInstructionTick = s.lastInstructionTick ∧ t.lastTimerTick = s.lastTimerTick ∧
        keepsRegs s t ∧ t.pc = s.pc ∧ t.i = s.i ∧ keepsMemory s t ∧ keepsDisplay s t ∧
        keepsStack s t ∧ keepsTimers s t ∧ keepsOutputs s t)

/-- While the core waits for a key, whatever the host does, PC, I, memory, the display, the stack, both timers, the
timer marker, the outputs and every register but Vx stay; the status moves only to Running, by a key-down, or to
Terminated, by a termination, and unless it moves to Running Vx and the instruction marker stay too. A Running
core comes to wait only by Fx0A, for its register (R323, R284, R158). That a turn with no event, and a call out of
place, are steps that change nothing of this is the model's choice (log 5, log 6); the wait is the spec's decision
D11, the termination D32. -/
def Obligations.WaitIsInert : Prop :=
  (∀ (s : State) (x : Nibble) (u : Nat), s.status = .waitingKey x u →
    ∃ t, step s = .next t ∧ t.pc = s.pc ∧ t.i = s.i ∧ keepsMemory s t ∧ keepsDisplay s t ∧
      keepsStack s t ∧ keepsTimers s t ∧ keepsOutputs s t ∧ t.lastTimerTick = s.lastTimerTick ∧
      keepsRegsBut s t (· = x) ∧
      ((t.status = .running ∧ ∃ k, s.nextEvent = some (.keyDown k)) ∨
       (t.status = .terminated ∧ s.nextEvent = some .terminate ∧
          keepsRegs s t ∧ t.lastInstructionTick = s.lastInstructionTick) ∨
       (t.status = s.status ∧ keepsRegs s t ∧ t.lastInstructionTick = s.lastInstructionTick))) ∧
  (∀ (s t : State) (x : Nibble) (u : Nat), s.status = .running → step s = .next t →
    t.status = .waitingKey x u → decodeWord s.fetchWord = .ldVxK x)

/-! ## 40_pipeline -/

/-- R133: the no-op rows complete and change nothing beyond the fetch; and a call that fetches an unrecognized word
moves PC by 2 and the instruction marker, leaves every register, memory byte, pixel and stack slot, sets neither
event output, and steps the timers no further than the timer gate before it. -/
def Obligations.UnrecognizedWordOnlyMovesPc : Prop :=
  (∀ (nnn : Addr12) (w : Word) (s : State),
    exec (.nop0 nnn) s = .next s ∧ exec (.nop w) s = .next s) ∧
  (∀ (s : State) (c : HostCall) (es : List HostEvent), calledWith s c es → executesIn s c →
    s.pc.toNat ≤ 0xFFE → ((∃ nnn, decodeWord s.fetchWord = .nop0 nnn) ∨
      ∃ w, decodeWord s.fetchWord = .nop w) →
    ∃ t, step s = .next t ∧ t.pc.toNat = s.pc.toNat + 2 ∧ t.lastInstructionTick = c.now ∧
      keepsRegs s t ∧ t.i = s.i ∧ t.status = .running ∧ keepsMemory s t ∧ keepsDisplay s t ∧
      keepsStack s t ∧ t.clearRequested = false ∧ t.displayDirty = false ∧
      keepsTimers (s.timerGate c.now) t)

/-- A call that executes runs the instruction its two bytes at PC decode to, in the state with the flags reset, the
timer gate and beep done and PC advanced; after it the instruction marker moves unless the core waits or has
faulted (R131, R132, R150; the order of the gates is the spec's decision D12; the call itself is the host's event,
log 5). -/
def Obligations.StepRunsTheDecodedInstruction : Prop :=
  ∀ (s : State) (c : HostCall) (es : List HostEvent) (i : Instr), calledWith s c es → executesIn s c →
    s.pc.toNat ≤ 0xFFE →
    decode [s.byteAt s.pc.toNat, s.byteAt (s.pc.toNat + 1)] = .ok (i, []) →
    step s = endOutcome c.now (exec i (State.fetched (State.callPrelude { s with host := es } c)))

/-- With PC above 0xFFE the call raises FETCH_OUT_OF_RANGE at that PC, and beyond what the call does before its
instruction gate nothing moves, PC among it (R130; that a fetch at 0xFFF faults is the spec's decision D1). The
record, with no word and no detail, is R313 (decision D21); that a raised fault is a next state is log 8. -/
def Obligations.FetchBeyondMemoryFaults : Prop :=
  ∀ (s : State) (c : HostCall) (es : List HostEvent), calledWith s c es → executesIn s c →
    0xFFE < s.pc.toNat →
    ∃ t, step s = .next t ∧
      t.status = .faulted (FaultRecord.mk .fetchOutOfRange s.pc none none) ∧
      t.pc = s.pc ∧ keepsRegs s t ∧ t.i = s.i ∧ keepsMemory s t ∧ keepsDisplay s t ∧ keepsStack s t ∧
      t.lastInstructionTick = s.lastInstructionTick ∧ preludeOnly s t c.now

/-- A call with a time below a timing marker raises HOST_TIME_REGRESSION with that time, and changes nothing else
(R157, the spec's decision D14). The record, with the current PC and no word, is R313 (decision D21). That the call
latches nothing, resets no output and uses up its event is log 17, and that a raised fault is a next state log 8;
the event itself is taken from the host's list (log 5). -/
def Obligations.RegressingTimeFaults : Prop :=
  ∀ (s : State) (c : HostCall) (es : List HostEvent), calledWith s c es →
    c.now < s.lastTimerTick ∨ c.now < s.lastInstructionTick →
    step s = .next { s with
      host := es
      status := .faulted (FaultRecord.mk .hostTimeRegression s.pc none (some c.now)) }

/-- A call whose instruction gate is closed: no instruction executes; each timer steps toward zero, never below,
exactly when 16_666_666 ns have passed, and then its marker moves to `now`; beep_active is ST ≠ 0 after that; the
two event outputs are reset (R152 to R156; the spec's decisions D12, D13 and D23 and its inference in R153). -/
def Obligations.ClosedGateOnlyRunsTheTimers : Prop :=
  ∀ (s : State) (c : HostCall) (es : List HostEvent), calledWith s c es → timeOk s c →
    c.now - s.lastInstructionTick < 1000000000 / s.config.ips →
    ∃ t, step s = .next t ∧
      (if s.lastTimerTick + 16666666 ≤ c.now
        then t.dt.toNat = s.dt.toNat - 1 ∧ t.st.toNat = s.st.toNat - 1 ∧ t.lastTimerTick = c.now
        else t.dt = s.dt ∧ t.st = s.st ∧ t.lastTimerTick = s.lastTimerTick) ∧
      (t.beepActive = true ↔ t.st ≠ 0#8) ∧ t.clearRequested = false ∧ t.displayDirty = false ∧
      t.lastInstructionTick = s.lastInstructionTick ∧ t.pc = s.pc ∧ t.i = s.i ∧
      t.status = .running ∧ keepsRegs s t ∧ keepsMemory s t ∧ keepsDisplay s t ∧ keepsStack s t

/-- After every call in time beep_active is whether ST is nonzero after the timer gate, whatever instruction the call
executes; Fx18 shows from the next call on (R154, the spec's decision D13). -/
def Obligations.BeepIsSetAfterTheTimerGate : Prop :=
  ∀ (s : State) (c : HostCall) (es : List HostEvent), calledWith s c es → timeOk s c →
    ∃ t, step s = .next t ∧
      (t.beepActive = true ↔
        0 < (if s.lastTimerTick + 16666666 ≤ c.now then s.st.toNat - 1 else s.st.toNat))

/-- After a call in time, clear_requested is true exactly if this call executed 00E0, and display_dirty exactly if it
executed a Dxyn that did not fault (R156, R160, R161). That a Dxyn that faults leaves display_dirty reset is the
spec's decision D4 (R74). -/
def Obligations.OutputsAreOfThisCallOnly : Prop :=
  ∀ (s : State) (c : HostCall) (es : List HostEvent), calledWith s c es → timeOk s c →
    ∃ t, step s = .next t ∧
      (t.clearRequested = true ↔
        executesIn s c ∧ s.pc.toNat ≤ 0xFFE ∧ decodeWord s.fetchWord = .cls) ∧
      (t.displayDirty = true ↔
        executesIn s c ∧ s.pc.toNat ≤ 0xFFE ∧ (∃ x y n, decodeWord s.fetchWord = .drw x y n) ∧
        State.notFaulted t)

/-- Two timer decrements are at least TIMER_PERIOD apart, two instructions at least INSTRUCTION_PERIOD (R159(b), the
spec's own inference): a step that moves a marker moves it by no less; one that leaves the timer marker changes
DT and ST only by Fx15 and Fx18; and one of a Running core that leaves the instruction marker and stays Running,
at a rate whose period is not 0, executes no instruction. -/
def Obligations.MarkersMoveByWholePeriods : Prop :=
  ∀ s t : State, s.Inv → step s = .next t →
    (t.lastTimerTick = s.lastTimerTick ∨ s.lastTimerTick + 16666666 ≤ t.lastTimerTick) ∧
    (t.lastInstructionTick = s.lastInstructionTick ∨
      s.lastInstructionTick + 1000000000 / s.config.ips ≤ t.lastInstructionTick) ∧
    (t.lastTimerTick = s.lastTimerTick →
      (t.dt = s.dt ∨ ∃ x, decodeWord s.fetchWord = .ldDtVx x ∧ t.dt = s.reg x) ∧
      (t.st = s.st ∨ ∃ x, decodeWord s.fetchWord = .ldStVx x ∧ t.st = s.reg x)) ∧
    (s.status = .running → t.status = .running → s.config.ips ≤ 1000000000 →
      t.lastInstructionTick = s.lastInstructionTick →
      t.pc = s.pc ∧ keepsRegs s t ∧ t.i = s.i ∧ keepsMemory s t ∧ keepsDisplay s t ∧ keepsStack s t)

/-- What an instruction does is a function of the state and, for Cxnn, Ex9E, ExA1 and Fx0A only, of one input: the
drawn byte, the held answer, the held answer (R135, R11). For Fx0A the input here is the time of its call, the
model's choice (log 7): by R11 its host input is the event that ends the wait, which comes later (R284,
KeyWaitEnds). With other inputs an instruction does the same and leaves those inputs. -/
def Obligations.InstructionsReadAtMostOneHostInput : Prop :=
  ∀ (i : Instr) (s : State) (c : HostCall),
    (∀ x nn, i = .rnd x nn → c.rand = s.call.rand) →
    (∀ x, i = .skp x ∨ i = .sknp x → c.held = s.call.held) →
    (∀ x, i = .ldVxK x → c.now = s.call.now) →
    ∃ t, exec i s = .next t ∧ exec i { s with call := c } = .next { t with call := c }

/-! ## 10_state and 20_memory: which instruction writes what -/

/-- No instruction other than Annn, Fx1E and Fx29 changes I (the last sentence of R37). -/
def Obligations.OnlyIndexInstructionsChangeI : Prop :=
  ∀ (i : Instr) (s : State), ∃ t, exec i s = .next t ∧
    (t.i = s.i ∨ (∃ nnn, i = .ldI nnn) ∨ (∃ x, i = .addI x) ∨ (∃ x, i = .ldF x))

/-- Only 2nnn writes a stack slot, and only 2nnn and 00EE move SP (R40, R41). -/
def Obligations.OnlyCallAndReturnTouchTheStack : Prop :=
  ∀ (i : Instr) (s : State), ∃ t, exec i s = .next t ∧
    ((∀ k : Fin 16, t.stack[k] = s.stack[k]) ∨ ∃ nnn, i = .call nnn) ∧
    (t.sp = s.sp ∨ (∃ nnn, i = .call nnn) ∨ i = .ret)

/-- Only 00E0 and Dxyn change the display (R46). -/
def Obligations.OnlyClearAndDrawChangeTheDisplay : Prop :=
  ∀ (i : Instr) (s : State), ∃ t, exec i s = .next t ∧
    (t.disp = s.disp ∨ i = .cls ∨ ∃ x y n, i = .drw x y n)

/-- Memory is written by Fx33 and Fx55 only (R70; that no other instruction accesses memory is the spec's own
inference there: "the opcode table of §4.3 names no other memory access"). -/
def Obligations.OnlyTwoStoresChangeMemory : Prop :=
  ∀ (i : Instr) (s : State), ∃ t, exec i s = .next t ∧
    (keepsMemory s t ∨ (∃ x, i = .ldB x) ∨ ∃ x, i = .stRegs x)

/-- The instructions that may change the register j: those whose x it is, Fx65 with x at or above it, and for VF the
flag writers and Dxyn (R31, the spec's own inference, and R36). Fx0A writes its register when the key comes
(R284). -/
def Obligations.RegisterWriters : Prop :=
  ∀ (i : Instr) (s : State) (j : Nibble), ∃ t, exec i s = .next t ∧
    (t.reg j = s.reg j ∨
      (∃ nn, i = .ldImm j nn ∨ i = .addImm j nn ∨ i = .rnd j nn) ∨
      (∃ y, i = .ldReg j y ∨ i = .orReg j y ∨ i = .andReg j y ∨ i = .xorReg j y ∨ i = .addReg j y ∨
        i = .subReg j y ∨ i = .shr j y ∨ i = .subnReg j y ∨ i = .shl j y) ∨
      i = .ldVxDt j ∨ (∃ x, i = .ldRegs x ∧ j.toNat ≤ x.toNat) ∨
      (j = 0xF#4 ∧ ((∃ x y, i = .addReg x y ∨ i = .subReg x y ∨ i = .shr x y ∨ i = .subnReg x y ∨
        i = .shl x y) ∨ ∃ x y n, i = .drw x y n)))

/-- Of the instructions only Fx15 writes DT and only Fx18 writes ST, and none moves a timing marker, beep_active or the
configuration (R43, R44, R50, R51, R53). That no instruction, Fx18 among them, moves beep_active is the spec's
decision D13 (R154, R286; log 16). -/
def Obligations.OnlyTwoInstructionsWriteTimers : Prop :=
  ∀ (i : Instr) (s : State), ∃ t, exec i s = .next t ∧ keepsSystem s t ∧
    t.beepActive = s.beepActive ∧
    (t.dt = s.dt ∨ ∃ x, i = .ldDtVx x) ∧ (t.st = s.st ∨ ∃ x, i = .ldStVx x)

/-- R77: the byte at PC is the high byte of the word fetched, the byte at PC + 1 the low one; and a word whose bytes
are stored there is what the next fetch reads. -/
def Obligations.FetchIsBigEndian : Prop :=
  (∀ s : State, s.fetchWord.toNat =
    (s.byteAt s.pc.toNat).toNat * 256 + (s.byteAt (s.pc.toNat + 1)).toNat) ∧
  (∀ (s : State) (hi lo : Byte), s.mem.wf s.config = true → s.pc.toNat + 1 ≤ 0xFFF →
    ((s.storeBytes s.pc.toNat [hi, lo]).fetchWord).toNat = hi.toNat * 256 + lo.toNat)

/-- Canonical memories with the same contents are the same data (log 13). -/
def Obligations.CanonicalMemoryIsItsContents : Prop :=
  ∀ (c : Config) (m n : Memory), m.wf c = true → n.wf c = true →
    (∀ a, a < 0x1000 → m.read c a = n.read c a) → m = n

/-! ## 60_exceptions -/

/-- In a call of a Running core, each fault code is the outcome exactly under its condition, in the order of R315;
otherwise the core does not fault (R312, R315). The codes and conditions are the spec's decisions D1, D4, D5, D14
and D21, and D18 for a Dxyn, whose clipped rows count in its range. That a raised fault is a next state is log 8. -/
def Obligations.FaultCodesAndTheirConditions : Prop :=
  ∀ (s : State) (c : HostCall) (es : List HostEvent), calledWith s c es →
    ∃ t, step s = .next t ∧ ∀ f : FaultCode, (∃ r, t.status = .faulted r ∧ r.code = f) ↔
      match f with
      | .hostTimeRegression => ¬ timeOk s c
      | .fetchOutOfRange => executesIn s c ∧ 0xFFE < s.pc.toNat
      | .memOutOfRange => executesIn s c ∧ s.pc.toNat ≤ 0xFFE ∧
          ((∃ x y n, decodeWord s.fetchWord = .drw x y n ∧ n ≠ 0#4 ∧
              0xFFF < s.i.toNat + n.toNat - 1) ∨
            (∃ x, decodeWord s.fetchWord = .ldB x ∧ 0xFFF < s.i.toNat + 2) ∨
            (∃ x, decodeWord s.fetchWord = .stRegs x ∧ 0xFFF < s.i.toNat + x.toNat) ∨
            (∃ x, decodeWord s.fetchWord = .ldRegs x ∧ 0xFFF < s.i.toNat + x.toNat))
      | .stackOverflow => executesIn s c ∧ s.pc.toNat ≤ 0xFFE ∧ s.sp.val = 16 ∧
          ∃ nnn, decodeWord s.fetchWord = .call nnn
      | .stackUnderflow => executesIn s c ∧ s.pc.toNat ≤ 0xFFE ∧ s.sp.val = 0 ∧
          decodeWord s.fetchWord = .ret

/-- A step of a Running core that ends Faulted has changed no register, memory byte, pixel, stack slot or I; PC is
past the instruction the record names (its address and word), or unmoved if the fetch or the call itself faulted.
Timers, timer marker and outputs are as before for a fault of the call itself, and otherwise what the call left
before its instruction gate (R313, R314, the spec's decision D21; R157; that a raised fault is a next state is log 8). -/
def Obligations.FaultsArePrecise : Prop :=
  ∀ (s t : State) (r : FaultRecord), s.status = .running → step s = .next t →
    t.status = .faulted r →
    keepsRegs s t ∧ keepsMemory s t ∧ keepsDisplay s t ∧ keepsStack s t ∧ t.i = s.i ∧ r.pc = s.pc ∧
    t.lastInstructionTick = s.lastInstructionTick ∧
    (if r.code = .fetchOutOfRange ∨ r.code = .hostTimeRegression
      then t.pc = s.pc ∧ r.word = none
      else t.pc.toNat = s.pc.toNat + 2 ∧ r.word = some s.fetchWord) ∧
    ∃ c, s.nextEvent = some (.cycle c) ∧
      (if r.code = .hostTimeRegression
        then keepsTimers s t ∧ keepsOutputs s t ∧ t.lastTimerTick = s.lastTimerTick
        else preludeOnly s t c.now)

/-- Faulted and Terminated are permanent: no step leads on from them (R311, R158; the spec's decision D21; the model's
choice of a fault outcome for it is log 8 and log 9). -/
def Obligations.EndedMachinesDoNotStep : Prop :=
  (∀ (s : State) (r : FaultRecord), s.status = .faulted r → step s = .fault (.faulted r)) ∧
  (∀ s : State, s.status = .terminated → step s = .fault .terminated)

/-- The model's host (log 5, log 6; R158, R331): with the list used up, a Running or waiting core takes the free
host's next turn, at which either nothing happens and no time passes, or the event is taken as a listed one
would be; and an event the status does not accept changes nothing. -/
def Obligations.HostTurnsDriveTheCore : Prop :=
  (∀ s : State, (∀ r, s.status ≠ .faulted r) → s.status ≠ .terminated → s.host = [] →
    step s = match Config.hostEvent s.turn with
      | none => .next { s with turn := s.turn + 1 }
      | some e => step { s with turn := s.turn + 1, host := [e] }) ∧
  (∀ (s : State) (e : HostEvent) (es : List HostEvent), s.status = .running →
    (∀ c, e ≠ .cycle c) → s.host = e :: es → step s = .next { s with host := es }) ∧
  (∀ (s : State) (x : Nibble) (u : Nat) (c : HostCall) (es : List HostEvent),
    s.status = .waitingKey x u → s.host = .cycle c :: es → step s = .next { s with host := es })

/-! ## 70_reset_and_hazards -/

/-- R76: the contents of memory after construction: FONT in the low 80 bytes, ROM from 0x200, every other byte
zero. -/
def Obligations.ConstructionMemoryContents : Prop :=
  ∀ c : Config, 1 ≤ c.ips → c.rom.length ≤ 3584 → ∃ s, construct c = .ok s ∧
    (∀ (a : Nat) (h : a < 80), s.byteAt a = c.font[a]) ∧
    (∀ (k : Nat) (h : k < c.rom.length), s.byteAt (0x200 + k) = c.rom[k]) ∧
    (∀ a, a < 0x1000 → (80 ≤ a ∧ a < 0x200) ∨ 0x200 + c.rom.length ≤ a → s.byteAt a = 0#8)

/-- Construction of an accepted configuration gives the listed value to every register, timer, stack slot, pixel,
output, marker and the status (R350; the pixels and the outputs are the spec's decision D33). -/
def Obligations.ConstructionValues : Prop :=
  ∀ c : Config, 1 ≤ c.ips → c.rom.length ≤ 3584 → ∃ s, construct c = .ok s ∧
    (∀ j, s.reg j = 0#8) ∧ s.i = 0#16 ∧ s.sp.val = 0 ∧ (∀ k : Fin 16, s.stack[k] = 0#16) ∧
    s.dt = 0#8 ∧ s.st = 0#8 ∧ (∀ y x, s.disp.get y x = false) ∧
    s.clearRequested = false ∧ s.displayDirty = false ∧ s.beepActive = false ∧
    s.pc = 0x200#16 ∧ s.lastTimerTick = c.t0 ∧ s.lastInstructionTick = c.t0 ∧ s.status = .running ∧
    s.config = c

/-- Construction is refused exactly for IPS = 0 or a ROM longer than 3584 bytes (R351, the spec's decisions D15 and
D16). -/
def Obligations.ConstructionRefusals : Prop :=
  ∀ c : Config, (∃ r, construct c = .error r) ↔ (c.ips = 0 ∨ 3584 < c.rom.length)

/-- The reset state is the constructed machine of its configuration (the model's choice, log 2 to log 4), and the
invariant of Safety.lean holds of it; so it does of every constructed machine. -/
def Obligations.ConstructedMachinesMeetTheInvariant : Prop :=
  State.reset.Inv ∧ construct State.reset.config = .ok State.reset ∧
  ∀ (c : Config) (s : State), construct c = .ok s → s.Inv

/-- Every step keeps the invariant (Safety.lean): canonical memory, the range of PC that R35 derives, the stack
slots, the outputs, the time of a wait, the fault record. -/
def Obligations.EveryStepKeepsTheInvariant : Prop :=
  ∀ s t : State, s.Inv → step s = .next t → t.Inv

/-- The configuration is fixed for the machine's life (R53; it is carried in State, log 1). -/
def Obligations.ConfigurationNeverChanges : Prop :=
  ∀ s t : State, step s = .next t → t.config = s.config
end

