-- ==== Sys2Proof/Laws/State.lean ====
section
/-! SUPPORT. What each update of the state leaves and what it writes, field by field, so that no proof unfolds
a record update. Fields whose value depends on a case (the timer gate's, a sprite draw's) have their
lemmas in the other files of Laws. -/

namespace Sys2Proof.Machine

variable (s : State)

/-! ### setReg -/

@[simp] theorem State.setReg_config (x : Nibble) (b : Byte) : (s.setReg x b).config = s.config := rfl
@[simp] theorem State.setReg_v (x : Nibble) (b : Byte) : (s.setReg x b).v = s.v.set x.toNat b x.isLt := rfl
@[simp] theorem State.setReg_i (x : Nibble) (b : Byte) : (s.setReg x b).i = s.i := rfl
@[simp] theorem State.setReg_pc (x : Nibble) (b : Byte) : (s.setReg x b).pc = s.pc := rfl
@[simp] theorem State.setReg_sp (x : Nibble) (b : Byte) : (s.setReg x b).sp = s.sp := rfl
@[simp] theorem State.setReg_stack (x : Nibble) (b : Byte) : (s.setReg x b).stack = s.stack := rfl
@[simp] theorem State.setReg_dt (x : Nibble) (b : Byte) : (s.setReg x b).dt = s.dt := rfl
@[simp] theorem State.setReg_st (x : Nibble) (b : Byte) : (s.setReg x b).st = s.st := rfl
@[simp] theorem State.setReg_mem (x : Nibble) (b : Byte) : (s.setReg x b).mem = s.mem := rfl
@[simp] theorem State.setReg_disp (x : Nibble) (b : Byte) : (s.setReg x b).disp = s.disp := rfl
@[simp] theorem State.setReg_clearRequested (x : Nibble) (b : Byte) : (s.setReg x b).clearRequested = s.clearRequested := rfl
@[simp] theorem State.setReg_displayDirty (x : Nibble) (b : Byte) : (s.setReg x b).displayDirty = s.displayDirty := rfl
@[simp] theorem State.setReg_beepActive (x : Nibble) (b : Byte) : (s.setReg x b).beepActive = s.beepActive := rfl
@[simp] theorem State.setReg_lastTimerTick (x : Nibble) (b : Byte) : (s.setReg x b).lastTimerTick = s.lastTimerTick := rfl
@[simp] theorem State.setReg_lastInstructionTick (x : Nibble) (b : Byte) : (s.setReg x b).lastInstructionTick = s.lastInstructionTick := rfl
@[simp] theorem State.setReg_status (x : Nibble) (b : Byte) : (s.setReg x b).status = s.status := rfl
@[simp] theorem State.setReg_call (x : Nibble) (b : Byte) : (s.setReg x b).call = s.call := rfl
@[simp] theorem State.setReg_host (x : Nibble) (b : Byte) : (s.setReg x b).host = s.host := rfl
@[simp] theorem State.setReg_turn (x : Nibble) (b : Byte) : (s.setReg x b).turn = s.turn := rfl
@[simp] theorem State.setReg_instrPc (x : Nibble) (b : Byte) : (s.setReg x b).instrPc = s.instrPc := rfl
@[simp] theorem State.setReg_instrWord (x : Nibble) (b : Byte) : (s.setReg x b).instrWord = s.instrWord := rfl

/-! ### setResultAndFlag -/

@[simp] theorem State.setResultAndFlag_config (x : Nibble) (r f : Byte) : (s.setResultAndFlag x r f).config = s.config := rfl
@[simp] theorem State.setResultAndFlag_v (x : Nibble) (r f : Byte) : (s.setResultAndFlag x r f).v = (s.v.set x.toNat r x.isLt).set vf.toNat f vf.isLt := rfl
@[simp] theorem State.setResultAndFlag_i (x : Nibble) (r f : Byte) : (s.setResultAndFlag x r f).i = s.i := rfl
@[simp] theorem State.setResultAndFlag_pc (x : Nibble) (r f : Byte) : (s.setResultAndFlag x r f).pc = s.pc := rfl
@[simp] theorem State.setResultAndFlag_sp (x : Nibble) (r f : Byte) : (s.setResultAndFlag x r f).sp = s.sp := rfl
@[simp] theorem State.setResultAndFlag_stack (x : Nibble) (r f : Byte) : (s.setResultAndFlag x r f).stack = s.stack := rfl
@[simp] theorem State.setResultAndFlag_dt (x : Nibble) (r f : Byte) : (s.setResultAndFlag x r f).dt = s.dt := rfl
@[simp] theorem State.setResultAndFlag_st (x : Nibble) (r f : Byte) : (s.setResultAndFlag x r f).st = s.st := rfl
@[simp] theorem State.setResultAndFlag_mem (x : Nibble) (r f : Byte) : (s.setResultAndFlag x r f).mem = s.mem := rfl
@[simp] theorem State.setResultAndFlag_disp (x : Nibble) (r f : Byte) : (s.setResultAndFlag x r f).disp = s.disp := rfl
@[simp] theorem State.setResultAndFlag_clearRequested (x : Nibble) (r f : Byte) : (s.setResultAndFlag x r f).clearRequested = s.clearRequested := rfl
@[simp] theorem State.setResultAndFlag_displayDirty (x : Nibble) (r f : Byte) : (s.setResultAndFlag x r f).displayDirty = s.displayDirty := rfl
@[simp] theorem State.setResultAndFlag_beepActive (x : Nibble) (r f : Byte) : (s.setResultAndFlag x r f).beepActive = s.beepActive := rfl
@[simp] theorem State.setResultAndFlag_lastTimerTick (x : Nibble) (r f : Byte) : (s.setResultAndFlag x r f).lastTimerTick = s.lastTimerTick := rfl
@[simp] theorem State.setResultAndFlag_lastInstructionTick (x : Nibble) (r f : Byte) : (s.setResultAndFlag x r f).lastInstructionTick = s.lastInstructionTick := rfl
@[simp] theorem State.setResultAndFlag_status (x : Nibble) (r f : Byte) : (s.setResultAndFlag x r f).status = s.status := rfl
@[simp] theorem State.setResultAndFlag_call (x : Nibble) (r f : Byte) : (s.setResultAndFlag x r f).call = s.call := rfl
@[simp] theorem State.setResultAndFlag_host (x : Nibble) (r f : Byte) : (s.setResultAndFlag x r f).host = s.host := rfl
@[simp] theorem State.setResultAndFlag_turn (x : Nibble) (r f : Byte) : (s.setResultAndFlag x r f).turn = s.turn := rfl
@[simp] theorem State.setResultAndFlag_instrPc (x : Nibble) (r f : Byte) : (s.setResultAndFlag x r f).instrPc = s.instrPc := rfl
@[simp] theorem State.setResultAndFlag_instrWord (x : Nibble) (r f : Byte) : (s.setResultAndFlag x r f).instrWord = s.instrWord := rfl

/-! ### setI -/

@[simp] theorem State.setI_config (w : Word) : (s.setI w).config = s.config := rfl
@[simp] theorem State.setI_v (w : Word) : (s.setI w).v = s.v := rfl
@[simp] theorem State.setI_i (w : Word) : (s.setI w).i = w := rfl
@[simp] theorem State.setI_pc (w : Word) : (s.setI w).pc = s.pc := rfl
@[simp] theorem State.setI_sp (w : Word) : (s.setI w).sp = s.sp := rfl
@[simp] theorem State.setI_stack (w : Word) : (s.setI w).stack = s.stack := rfl
@[simp] theorem State.setI_dt (w : Word) : (s.setI w).dt = s.dt := rfl
@[simp] theorem State.setI_st (w : Word) : (s.setI w).st = s.st := rfl
@[simp] theorem State.setI_mem (w : Word) : (s.setI w).mem = s.mem := rfl
@[simp] theorem State.setI_disp (w : Word) : (s.setI w).disp = s.disp := rfl
@[simp] theorem State.setI_clearRequested (w : Word) : (s.setI w).clearRequested = s.clearRequested := rfl
@[simp] theorem State.setI_displayDirty (w : Word) : (s.setI w).displayDirty = s.displayDirty := rfl
@[simp] theorem State.setI_beepActive (w : Word) : (s.setI w).beepActive = s.beepActive := rfl
@[simp] theorem State.setI_lastTimerTick (w : Word) : (s.setI w).lastTimerTick = s.lastTimerTick := rfl
@[simp] theorem State.setI_lastInstructionTick (w : Word) : (s.setI w).lastInstructionTick = s.lastInstructionTick := rfl
@[simp] theorem State.setI_status (w : Word) : (s.setI w).status = s.status := rfl
@[simp] theorem State.setI_call (w : Word) : (s.setI w).call = s.call := rfl
@[simp] theorem State.setI_host (w : Word) : (s.setI w).host = s.host := rfl
@[simp] theorem State.setI_turn (w : Word) : (s.setI w).turn = s.turn := rfl
@[simp] theorem State.setI_instrPc (w : Word) : (s.setI w).instrPc = s.instrPc := rfl
@[simp] theorem State.setI_instrWord (w : Word) : (s.setI w).instrWord = s.instrWord := rfl

/-! ### setByte -/

@[simp] theorem State.setByte_config (a : Nat) (b : Byte) : (s.setByte a b).config = s.config := rfl
@[simp] theorem State.setByte_v (a : Nat) (b : Byte) : (s.setByte a b).v = s.v := rfl
@[simp] theorem State.setByte_i (a : Nat) (b : Byte) : (s.setByte a b).i = s.i := rfl
@[simp] theorem State.setByte_pc (a : Nat) (b : Byte) : (s.setByte a b).pc = s.pc := rfl
@[simp] theorem State.setByte_sp (a : Nat) (b : Byte) : (s.setByte a b).sp = s.sp := rfl
@[simp] theorem State.setByte_stack (a : Nat) (b : Byte) : (s.setByte a b).stack = s.stack := rfl
@[simp] theorem State.setByte_dt (a : Nat) (b : Byte) : (s.setByte a b).dt = s.dt := rfl
@[simp] theorem State.setByte_st (a : Nat) (b : Byte) : (s.setByte a b).st = s.st := rfl
@[simp] theorem State.setByte_mem (a : Nat) (b : Byte) : (s.setByte a b).mem = Memory.write s.config s.mem a b := rfl
@[simp] theorem State.setByte_disp (a : Nat) (b : Byte) : (s.setByte a b).disp = s.disp := rfl
@[simp] theorem State.setByte_clearRequested (a : Nat) (b : Byte) : (s.setByte a b).clearRequested = s.clearRequested := rfl
@[simp] theorem State.setByte_displayDirty (a : Nat) (b : Byte) : (s.setByte a b).displayDirty = s.displayDirty := rfl
@[simp] theorem State.setByte_beepActive (a : Nat) (b : Byte) : (s.setByte a b).beepActive = s.beepActive := rfl
@[simp] theorem State.setByte_lastTimerTick (a : Nat) (b : Byte) : (s.setByte a b).lastTimerTick = s.lastTimerTick := rfl
@[simp] theorem State.setByte_lastInstructionTick (a : Nat) (b : Byte) : (s.setByte a b).lastInstructionTick = s.lastInstructionTick := rfl
@[simp] theorem State.setByte_status (a : Nat) (b : Byte) : (s.setByte a b).status = s.status := rfl
@[simp] theorem State.setByte_call (a : Nat) (b : Byte) : (s.setByte a b).call = s.call := rfl
@[simp] theorem State.setByte_host (a : Nat) (b : Byte) : (s.setByte a b).host = s.host := rfl
@[simp] theorem State.setByte_turn (a : Nat) (b : Byte) : (s.setByte a b).turn = s.turn := rfl
@[simp] theorem State.setByte_instrPc (a : Nat) (b : Byte) : (s.setByte a b).instrPc = s.instrPc := rfl
@[simp] theorem State.setByte_instrWord (a : Nat) (b : Byte) : (s.setByte a b).instrWord = s.instrWord := rfl

/-! ### raise -/

@[simp] theorem State.raise_config (r : FaultRecord) : (s.raise r).config = s.config := rfl
@[simp] theorem State.raise_v (r : FaultRecord) : (s.raise r).v = s.v := rfl
@[simp] theorem State.raise_i (r : FaultRecord) : (s.raise r).i = s.i := rfl
@[simp] theorem State.raise_pc (r : FaultRecord) : (s.raise r).pc = s.pc := rfl
@[simp] theorem State.raise_sp (r : FaultRecord) : (s.raise r).sp = s.sp := rfl
@[simp] theorem State.raise_stack (r : FaultRecord) : (s.raise r).stack = s.stack := rfl
@[simp] theorem State.raise_dt (r : FaultRecord) : (s.raise r).dt = s.dt := rfl
@[simp] theorem State.raise_st (r : FaultRecord) : (s.raise r).st = s.st := rfl
@[simp] theorem State.raise_mem (r : FaultRecord) : (s.raise r).mem = s.mem := rfl
@[simp] theorem State.raise_disp (r : FaultRecord) : (s.raise r).disp = s.disp := rfl
@[simp] theorem State.raise_clearRequested (r : FaultRecord) : (s.raise r).clearRequested = s.clearRequested := rfl
@[simp] theorem State.raise_displayDirty (r : FaultRecord) : (s.raise r).displayDirty = s.displayDirty := rfl
@[simp] theorem State.raise_beepActive (r : FaultRecord) : (s.raise r).beepActive = s.beepActive := rfl
@[simp] theorem State.raise_lastTimerTick (r : FaultRecord) : (s.raise r).lastTimerTick = s.lastTimerTick := rfl
@[simp] theorem State.raise_lastInstructionTick (r : FaultRecord) : (s.raise r).lastInstructionTick = s.lastInstructionTick := rfl
@[simp] theorem State.raise_status (r : FaultRecord) : (s.raise r).status = .faulted r := rfl
@[simp] theorem State.raise_call (r : FaultRecord) : (s.raise r).call = s.call := rfl
@[simp] theorem State.raise_host (r : FaultRecord) : (s.raise r).host = s.host := rfl
@[simp] theorem State.raise_turn (r : FaultRecord) : (s.raise r).turn = s.turn := rfl
@[simp] theorem State.raise_instrPc (r : FaultRecord) : (s.raise r).instrPc = s.instrPc := rfl
@[simp] theorem State.raise_instrWord (r : FaultRecord) : (s.raise r).instrWord = s.instrWord := rfl

/-! ### raiseInstr -/

@[simp] theorem State.raiseInstr_config (c : FaultCode) (d : Option Nat) : (s.raiseInstr c d).config = s.config := rfl
@[simp] theorem State.raiseInstr_v (c : FaultCode) (d : Option Nat) : (s.raiseInstr c d).v = s.v := rfl
@[simp] theorem State.raiseInstr_i (c : FaultCode) (d : Option Nat) : (s.raiseInstr c d).i = s.i := rfl
@[simp] theorem State.raiseInstr_pc (c : FaultCode) (d : Option Nat) : (s.raiseInstr c d).pc = s.pc := rfl
@[simp] theorem State.raiseInstr_sp (c : FaultCode) (d : Option Nat) : (s.raiseInstr c d).sp = s.sp := rfl
@[simp] theorem State.raiseInstr_stack (c : FaultCode) (d : Option Nat) : (s.raiseInstr c d).stack = s.stack := rfl
@[simp] theorem State.raiseInstr_dt (c : FaultCode) (d : Option Nat) : (s.raiseInstr c d).dt = s.dt := rfl
@[simp] theorem State.raiseInstr_st (c : FaultCode) (d : Option Nat) : (s.raiseInstr c d).st = s.st := rfl
@[simp] theorem State.raiseInstr_mem (c : FaultCode) (d : Option Nat) : (s.raiseInstr c d).mem = s.mem := rfl
@[simp] theorem State.raiseInstr_disp (c : FaultCode) (d : Option Nat) : (s.raiseInstr c d).disp = s.disp := rfl
@[simp] theorem State.raiseInstr_clearRequested (c : FaultCode) (d : Option Nat) : (s.raiseInstr c d).clearRequested = s.clearRequested := rfl
@[simp] theorem State.raiseInstr_displayDirty (c : FaultCode) (d : Option Nat) : (s.raiseInstr c d).displayDirty = s.displayDirty := rfl
@[simp] theorem State.raiseInstr_beepActive (c : FaultCode) (d : Option Nat) : (s.raiseInstr c d).beepActive = s.beepActive := rfl
@[simp] theorem State.raiseInstr_lastTimerTick (c : FaultCode) (d : Option Nat) : (s.raiseInstr c d).lastTimerTick = s.lastTimerTick := rfl
@[simp] theorem State.raiseInstr_lastInstructionTick (c : FaultCode) (d : Option Nat) : (s.raiseInstr c d).lastInstructionTick = s.lastInstructionTick := rfl
@[simp] theorem State.raiseInstr_status (c : FaultCode) (d : Option Nat) : (s.raiseInstr c d).status = .faulted (FaultRecord.mk c s.instrPc (some s.instrWord) d) := rfl
@[simp] theorem State.raiseInstr_call (c : FaultCode) (d : Option Nat) : (s.raiseInstr c d).call = s.call := rfl
@[simp] theorem State.raiseInstr_host (c : FaultCode) (d : Option Nat) : (s.raiseInstr c d).host = s.host := rfl
@[simp] theorem State.raiseInstr_turn (c : FaultCode) (d : Option Nat) : (s.raiseInstr c d).turn = s.turn := rfl
@[simp] theorem State.raiseInstr_instrPc (c : FaultCode) (d : Option Nat) : (s.raiseInstr c d).instrPc = s.instrPc := rfl
@[simp] theorem State.raiseInstr_instrWord (c : FaultCode) (d : Option Nat) : (s.raiseInstr c d).instrWord = s.instrWord := rfl

/-! ### jumpTo -/

@[simp] theorem State.jumpTo_config (w : Word) : (s.jumpTo w).config = s.config := rfl
@[simp] theorem State.jumpTo_v (w : Word) : (s.jumpTo w).v = s.v := rfl
@[simp] theorem State.jumpTo_i (w : Word) : (s.jumpTo w).i = s.i := rfl
@[simp] theorem State.jumpTo_pc (w : Word) : (s.jumpTo w).pc = w := rfl
@[simp] theorem State.jumpTo_sp (w : Word) : (s.jumpTo w).sp = s.sp := rfl
@[simp] theorem State.jumpTo_stack (w : Word) : (s.jumpTo w).stack = s.stack := rfl
@[simp] theorem State.jumpTo_dt (w : Word) : (s.jumpTo w).dt = s.dt := rfl
@[simp] theorem State.jumpTo_st (w : Word) : (s.jumpTo w).st = s.st := rfl
@[simp] theorem State.jumpTo_mem (w : Word) : (s.jumpTo w).mem = s.mem := rfl
@[simp] theorem State.jumpTo_disp (w : Word) : (s.jumpTo w).disp = s.disp := rfl
@[simp] theorem State.jumpTo_clearRequested (w : Word) : (s.jumpTo w).clearRequested = s.clearRequested := rfl
@[simp] theorem State.jumpTo_displayDirty (w : Word) : (s.jumpTo w).displayDirty = s.displayDirty := rfl
@[simp] theorem State.jumpTo_beepActive (w : Word) : (s.jumpTo w).beepActive = s.beepActive := rfl
@[simp] theorem State.jumpTo_lastTimerTick (w : Word) : (s.jumpTo w).lastTimerTick = s.lastTimerTick := rfl
@[simp] theorem State.jumpTo_lastInstructionTick (w : Word) : (s.jumpTo w).lastInstructionTick = s.lastInstructionTick := rfl
@[simp] theorem State.jumpTo_status (w : Word) : (s.jumpTo w).status = s.status := rfl
@[simp] theorem State.jumpTo_call (w : Word) : (s.jumpTo w).call = s.call := rfl
@[simp] theorem State.jumpTo_host (w : Word) : (s.jumpTo w).host = s.host := rfl
@[simp] theorem State.jumpTo_turn (w : Word) : (s.jumpTo w).turn = s.turn := rfl
@[simp] theorem State.jumpTo_instrPc (w : Word) : (s.jumpTo w).instrPc = s.instrPc := rfl
@[simp] theorem State.jumpTo_instrWord (w : Word) : (s.jumpTo w).instrWord = s.instrWord := rfl

/-! ### skip -/

@[simp] theorem State.skip_config : (s.skip).config = s.config := rfl
@[simp] theorem State.skip_v : (s.skip).v = s.v := rfl
@[simp] theorem State.skip_i : (s.skip).i = s.i := rfl
@[simp] theorem State.skip_pc : (s.skip).pc = s.pc + 2#16 := rfl
@[simp] theorem State.skip_sp : (s.skip).sp = s.sp := rfl
@[simp] theorem State.skip_stack : (s.skip).stack = s.stack := rfl
@[simp] theorem State.skip_dt : (s.skip).dt = s.dt := rfl
@[simp] theorem State.skip_st : (s.skip).st = s.st := rfl
@[simp] theorem State.skip_mem : (s.skip).mem = s.mem := rfl
@[simp] theorem State.skip_disp : (s.skip).disp = s.disp := rfl
@[simp] theorem State.skip_clearRequested : (s.skip).clearRequested = s.clearRequested := rfl
@[simp] theorem State.skip_displayDirty : (s.skip).displayDirty = s.displayDirty := rfl
@[simp] theorem State.skip_beepActive : (s.skip).beepActive = s.beepActive := rfl
@[simp] theorem State.skip_lastTimerTick : (s.skip).lastTimerTick = s.lastTimerTick := rfl
@[simp] theorem State.skip_lastInstructionTick : (s.skip).lastInstructionTick = s.lastInstructionTick := rfl
@[simp] theorem State.skip_status : (s.skip).status = s.status := rfl
@[simp] theorem State.skip_call : (s.skip).call = s.call := rfl
@[simp] theorem State.skip_host : (s.skip).host = s.host := rfl
@[simp] theorem State.skip_turn : (s.skip).turn = s.turn := rfl
@[simp] theorem State.skip_instrPc : (s.skip).instrPc = s.instrPc := rfl
@[simp] theorem State.skip_instrWord : (s.skip).instrWord = s.instrWord := rfl

/-! ### skipIf -/

@[simp] theorem State.skipIf_config (b : Bool) : (s.skipIf b).config = s.config := by cases b <;> rfl
@[simp] theorem State.skipIf_v (b : Bool) : (s.skipIf b).v = s.v := by cases b <;> rfl
@[simp] theorem State.skipIf_i (b : Bool) : (s.skipIf b).i = s.i := by cases b <;> rfl
@[simp] theorem State.skipIf_pc (b : Bool) : (s.skipIf b).pc = if b then s.pc + 2#16 else s.pc := by cases b <;> rfl
@[simp] theorem State.skipIf_sp (b : Bool) : (s.skipIf b).sp = s.sp := by cases b <;> rfl
@[simp] theorem State.skipIf_stack (b : Bool) : (s.skipIf b).stack = s.stack := by cases b <;> rfl
@[simp] theorem State.skipIf_dt (b : Bool) : (s.skipIf b).dt = s.dt := by cases b <;> rfl
@[simp] theorem State.skipIf_st (b : Bool) : (s.skipIf b).st = s.st := by cases b <;> rfl
@[simp] theorem State.skipIf_mem (b : Bool) : (s.skipIf b).mem = s.mem := by cases b <;> rfl
@[simp] theorem State.skipIf_disp (b : Bool) : (s.skipIf b).disp = s.disp := by cases b <;> rfl
@[simp] theorem State.skipIf_clearRequested (b : Bool) : (s.skipIf b).clearRequested = s.clearRequested := by cases b <;> rfl
@[simp] theorem State.skipIf_displayDirty (b : Bool) : (s.skipIf b).displayDirty = s.displayDirty := by cases b <;> rfl
@[simp] theorem State.skipIf_beepActive (b : Bool) : (s.skipIf b).beepActive = s.beepActive := by cases b <;> rfl
@[simp] theorem State.skipIf_lastTimerTick (b : Bool) : (s.skipIf b).lastTimerTick = s.lastTimerTick := by cases b <;> rfl
@[simp] theorem State.skipIf_lastInstructionTick (b : Bool) : (s.skipIf b).lastInstructionTick = s.lastInstructionTick := by cases b <;> rfl
@[simp] theorem State.skipIf_status (b : Bool) : (s.skipIf b).status = s.status := by cases b <;> rfl
@[simp] theorem State.skipIf_call (b : Bool) : (s.skipIf b).call = s.call := by cases b <;> rfl
@[simp] theorem State.skipIf_host (b : Bool) : (s.skipIf b).host = s.host := by cases b <;> rfl
@[simp] theorem State.skipIf_turn (b : Bool) : (s.skipIf b).turn = s.turn := by cases b <;> rfl
@[simp] theorem State.skipIf_instrPc (b : Bool) : (s.skipIf b).instrPc = s.instrPc := by cases b <;> rfl
@[simp] theorem State.skipIf_instrWord (b : Bool) : (s.skipIf b).instrWord = s.instrWord := by cases b <;> rfl

/-! ### drawSprite -/

@[simp] theorem State.drawSprite_config (x y n : Nibble) : (s.drawSprite x y n).config = s.config := rfl
@[simp] theorem State.drawSprite_i (x y n : Nibble) : (s.drawSprite x y n).i = s.i := rfl
@[simp] theorem State.drawSprite_pc (x y n : Nibble) : (s.drawSprite x y n).pc = s.pc := rfl
@[simp] theorem State.drawSprite_sp (x y n : Nibble) : (s.drawSprite x y n).sp = s.sp := rfl
@[simp] theorem State.drawSprite_stack (x y n : Nibble) : (s.drawSprite x y n).stack = s.stack := rfl
@[simp] theorem State.drawSprite_dt (x y n : Nibble) : (s.drawSprite x y n).dt = s.dt := rfl
@[simp] theorem State.drawSprite_st (x y n : Nibble) : (s.drawSprite x y n).st = s.st := rfl
@[simp] theorem State.drawSprite_mem (x y n : Nibble) : (s.drawSprite x y n).mem = s.mem := rfl
@[simp] theorem State.drawSprite_clearRequested (x y n : Nibble) : (s.drawSprite x y n).clearRequested = s.clearRequested := rfl
@[simp] theorem State.drawSprite_displayDirty (x y n : Nibble) : (s.drawSprite x y n).displayDirty = true := rfl
@[simp] theorem State.drawSprite_beepActive (x y n : Nibble) : (s.drawSprite x y n).beepActive = s.beepActive := rfl
@[simp] theorem State.drawSprite_lastTimerTick (x y n : Nibble) : (s.drawSprite x y n).lastTimerTick = s.lastTimerTick := rfl
@[simp] theorem State.drawSprite_lastInstructionTick (x y n : Nibble) : (s.drawSprite x y n).lastInstructionTick = s.lastInstructionTick := rfl
@[simp] theorem State.drawSprite_status (x y n : Nibble) : (s.drawSprite x y n).status = s.status := rfl
@[simp] theorem State.drawSprite_call (x y n : Nibble) : (s.drawSprite x y n).call = s.call := rfl
@[simp] theorem State.drawSprite_host (x y n : Nibble) : (s.drawSprite x y n).host = s.host := rfl
@[simp] theorem State.drawSprite_turn (x y n : Nibble) : (s.drawSprite x y n).turn = s.turn := rfl
@[simp] theorem State.drawSprite_instrPc (x y n : Nibble) : (s.drawSprite x y n).instrPc = s.instrPc := rfl
@[simp] theorem State.drawSprite_instrWord (x y n : Nibble) : (s.drawSprite x y n).instrWord = s.instrWord := rfl

/-! ### fetched -/

@[simp] theorem State.fetched_config : (s.fetched).config = s.config := rfl
@[simp] theorem State.fetched_v : (s.fetched).v = s.v := rfl
@[simp] theorem State.fetched_i : (s.fetched).i = s.i := rfl
@[simp] theorem State.fetched_pc : (s.fetched).pc = s.pc + 2#16 := rfl
@[simp] theorem State.fetched_sp : (s.fetched).sp = s.sp := rfl
@[simp] theorem State.fetched_stack : (s.fetched).stack = s.stack := rfl
@[simp] theorem State.fetched_dt : (s.fetched).dt = s.dt := rfl
@[simp] theorem State.fetched_st : (s.fetched).st = s.st := rfl
@[simp] theorem State.fetched_mem : (s.fetched).mem = s.mem := rfl
@[simp] theorem State.fetched_disp : (s.fetched).disp = s.disp := rfl
@[simp] theorem State.fetched_clearRequested : (s.fetched).clearRequested = s.clearRequested := rfl
@[simp] theorem State.fetched_displayDirty : (s.fetched).displayDirty = s.displayDirty := rfl
@[simp] theorem State.fetched_beepActive : (s.fetched).beepActive = s.beepActive := rfl
@[simp] theorem State.fetched_lastTimerTick : (s.fetched).lastTimerTick = s.lastTimerTick := rfl
@[simp] theorem State.fetched_lastInstructionTick : (s.fetched).lastInstructionTick = s.lastInstructionTick := rfl
@[simp] theorem State.fetched_status : (s.fetched).status = s.status := rfl
@[simp] theorem State.fetched_call : (s.fetched).call = s.call := rfl
@[simp] theorem State.fetched_host : (s.fetched).host = s.host := rfl
@[simp] theorem State.fetched_turn : (s.fetched).turn = s.turn := rfl
@[simp] theorem State.fetched_instrPc : (s.fetched).instrPc = s.pc := rfl
@[simp] theorem State.fetched_instrWord : (s.fetched).instrWord = s.fetchWord := rfl

/-! ### beginCall -/

@[simp] theorem State.beginCall_config (c : HostCall) : (s.beginCall c).config = s.config := rfl
@[simp] theorem State.beginCall_v (c : HostCall) : (s.beginCall c).v = s.v := rfl
@[simp] theorem State.beginCall_i (c : HostCall) : (s.beginCall c).i = s.i := rfl
@[simp] theorem State.beginCall_pc (c : HostCall) : (s.beginCall c).pc = s.pc := rfl
@[simp] theorem State.beginCall_sp (c : HostCall) : (s.beginCall c).sp = s.sp := rfl
@[simp] theorem State.beginCall_stack (c : HostCall) : (s.beginCall c).stack = s.stack := rfl
@[simp] theorem State.beginCall_dt (c : HostCall) : (s.beginCall c).dt = s.dt := rfl
@[simp] theorem State.beginCall_st (c : HostCall) : (s.beginCall c).st = s.st := rfl
@[simp] theorem State.beginCall_mem (c : HostCall) : (s.beginCall c).mem = s.mem := rfl
@[simp] theorem State.beginCall_disp (c : HostCall) : (s.beginCall c).disp = s.disp := rfl
@[simp] theorem State.beginCall_clearRequested (c : HostCall) : (s.beginCall c).clearRequested = false := rfl
@[simp] theorem State.beginCall_displayDirty (c : HostCall) : (s.beginCall c).displayDirty = false := rfl
@[simp] theorem State.beginCall_beepActive (c : HostCall) : (s.beginCall c).beepActive = s.beepActive := rfl
@[simp] theorem State.beginCall_lastTimerTick (c : HostCall) : (s.beginCall c).lastTimerTick = s.lastTimerTick := rfl
@[simp] theorem State.beginCall_lastInstructionTick (c : HostCall) : (s.beginCall c).lastInstructionTick = s.lastInstructionTick := rfl
@[simp] theorem State.beginCall_status (c : HostCall) : (s.beginCall c).status = s.status := rfl
@[simp] theorem State.beginCall_call (c : HostCall) : (s.beginCall c).call = c := rfl
@[simp] theorem State.beginCall_host (c : HostCall) : (s.beginCall c).host = s.host := rfl
@[simp] theorem State.beginCall_turn (c : HostCall) : (s.beginCall c).turn = s.turn := rfl
@[simp] theorem State.beginCall_instrPc (c : HostCall) : (s.beginCall c).instrPc = s.instrPc := rfl
@[simp] theorem State.beginCall_instrWord (c : HostCall) : (s.beginCall c).instrWord = s.instrWord := rfl

/-! ### timerGate -/

@[simp] theorem State.timerGate_config (now : Nat) : (s.timerGate now).config = s.config := by unfold State.timerGate; split <;> rfl
@[simp] theorem State.timerGate_v (now : Nat) : (s.timerGate now).v = s.v := by unfold State.timerGate; split <;> rfl
@[simp] theorem State.timerGate_i (now : Nat) : (s.timerGate now).i = s.i := by unfold State.timerGate; split <;> rfl
@[simp] theorem State.timerGate_pc (now : Nat) : (s.timerGate now).pc = s.pc := by unfold State.timerGate; split <;> rfl
@[simp] theorem State.timerGate_sp (now : Nat) : (s.timerGate now).sp = s.sp := by unfold State.timerGate; split <;> rfl
@[simp] theorem State.timerGate_stack (now : Nat) : (s.timerGate now).stack = s.stack := by unfold State.timerGate; split <;> rfl
@[simp] theorem State.timerGate_dt (now : Nat) : (s.timerGate now).dt = if timerPeriod ≤ now - s.lastTimerTick then countDown s.dt else s.dt := by unfold State.timerGate; split <;> rfl
@[simp] theorem State.timerGate_st (now : Nat) : (s.timerGate now).st = if timerPeriod ≤ now - s.lastTimerTick then countDown s.st else s.st := by unfold State.timerGate; split <;> rfl
@[simp] theorem State.timerGate_mem (now : Nat) : (s.timerGate now).mem = s.mem := by unfold State.timerGate; split <;> rfl
@[simp] theorem State.timerGate_disp (now : Nat) : (s.timerGate now).disp = s.disp := by unfold State.timerGate; split <;> rfl
@[simp] theorem State.timerGate_clearRequested (now : Nat) : (s.timerGate now).clearRequested = s.clearRequested := by unfold State.timerGate; split <;> rfl
@[simp] theorem State.timerGate_displayDirty (now : Nat) : (s.timerGate now).displayDirty = s.displayDirty := by unfold State.timerGate; split <;> rfl
@[simp] theorem State.timerGate_beepActive (now : Nat) : (s.timerGate now).beepActive = s.beepActive := by unfold State.timerGate; split <;> rfl
@[simp] theorem State.timerGate_lastTimerTick (now : Nat) : (s.timerGate now).lastTimerTick = if timerPeriod ≤ now - s.lastTimerTick then now else s.lastTimerTick := by unfold State.timerGate; split <;> rfl
@[simp] theorem State.timerGate_lastInstructionTick (now : Nat) : (s.timerGate now).lastInstructionTick = s.lastInstructionTick := by unfold State.timerGate; split <;> rfl
@[simp] theorem State.timerGate_status (now : Nat) : (s.timerGate now).status = s.status := by unfold State.timerGate; split <;> rfl
@[simp] theorem State.timerGate_call (now : Nat) : (s.timerGate now).call = s.call := by unfold State.timerGate; split <;> rfl
@[simp] theorem State.timerGate_host (now : Nat) : (s.timerGate now).host = s.host := by unfold State.timerGate; split <;> rfl
@[simp] theorem State.timerGate_turn (now : Nat) : (s.timerGate now).turn = s.turn := by unfold State.timerGate; split <;> rfl
@[simp] theorem State.timerGate_instrPc (now : Nat) : (s.timerGate now).instrPc = s.instrPc := by unfold State.timerGate; split <;> rfl
@[simp] theorem State.timerGate_instrWord (now : Nat) : (s.timerGate now).instrWord = s.instrWord := by unfold State.timerGate; split <;> rfl

/-! ### updateBeep -/

@[simp] theorem State.updateBeep_config : (s.updateBeep).config = s.config := rfl
@[simp] theorem State.updateBeep_v : (s.updateBeep).v = s.v := rfl
@[simp] theorem State.updateBeep_i : (s.updateBeep).i = s.i := rfl
@[simp] theorem State.updateBeep_pc : (s.updateBeep).pc = s.pc := rfl
@[simp] theorem State.updateBeep_sp : (s.updateBeep).sp = s.sp := rfl
@[simp] theorem State.updateBeep_stack : (s.updateBeep).stack = s.stack := rfl
@[simp] theorem State.updateBeep_dt : (s.updateBeep).dt = s.dt := rfl
@[simp] theorem State.updateBeep_st : (s.updateBeep).st = s.st := rfl
@[simp] theorem State.updateBeep_mem : (s.updateBeep).mem = s.mem := rfl
@[simp] theorem State.updateBeep_disp : (s.updateBeep).disp = s.disp := rfl
@[simp] theorem State.updateBeep_clearRequested : (s.updateBeep).clearRequested = s.clearRequested := rfl
@[simp] theorem State.updateBeep_displayDirty : (s.updateBeep).displayDirty = s.displayDirty := rfl
@[simp] theorem State.updateBeep_beepActive : (s.updateBeep).beepActive = (s.st != 0#8) := rfl
@[simp] theorem State.updateBeep_lastTimerTick : (s.updateBeep).lastTimerTick = s.lastTimerTick := rfl
@[simp] theorem State.updateBeep_lastInstructionTick : (s.updateBeep).lastInstructionTick = s.lastInstructionTick := rfl
@[simp] theorem State.updateBeep_status : (s.updateBeep).status = s.status := rfl
@[simp] theorem State.updateBeep_call : (s.updateBeep).call = s.call := rfl
@[simp] theorem State.updateBeep_host : (s.updateBeep).host = s.host := rfl
@[simp] theorem State.updateBeep_turn : (s.updateBeep).turn = s.turn := rfl
@[simp] theorem State.updateBeep_instrPc : (s.updateBeep).instrPc = s.instrPc := rfl
@[simp] theorem State.updateBeep_instrWord : (s.updateBeep).instrWord = s.instrWord := rfl

/-! ### callPrelude -/

@[simp] theorem State.callPrelude_config (c : HostCall) : (s.callPrelude c).config = s.config := by simp [State.callPrelude]
@[simp] theorem State.callPrelude_v (c : HostCall) : (s.callPrelude c).v = s.v := by simp [State.callPrelude]
@[simp] theorem State.callPrelude_i (c : HostCall) : (s.callPrelude c).i = s.i := by simp [State.callPrelude]
@[simp] theorem State.callPrelude_pc (c : HostCall) : (s.callPrelude c).pc = s.pc := by simp [State.callPrelude]
@[simp] theorem State.callPrelude_sp (c : HostCall) : (s.callPrelude c).sp = s.sp := by simp [State.callPrelude]
@[simp] theorem State.callPrelude_stack (c : HostCall) : (s.callPrelude c).stack = s.stack := by simp [State.callPrelude]
@[simp] theorem State.callPrelude_dt (c : HostCall) : (s.callPrelude c).dt = if timerPeriod ≤ c.now - s.lastTimerTick then countDown s.dt else s.dt := by
  simp [State.callPrelude]; rfl
@[simp] theorem State.callPrelude_st (c : HostCall) : (s.callPrelude c).st = if timerPeriod ≤ c.now - s.lastTimerTick then countDown s.st else s.st := by
  simp [State.callPrelude]; rfl
@[simp] theorem State.callPrelude_mem (c : HostCall) : (s.callPrelude c).mem = s.mem := by simp [State.callPrelude]
@[simp] theorem State.callPrelude_disp (c : HostCall) : (s.callPrelude c).disp = s.disp := by simp [State.callPrelude]
@[simp] theorem State.callPrelude_clearRequested (c : HostCall) : (s.callPrelude c).clearRequested = false := by simp [State.callPrelude]
@[simp] theorem State.callPrelude_displayDirty (c : HostCall) : (s.callPrelude c).displayDirty = false := by simp [State.callPrelude]
@[simp] theorem State.callPrelude_beepActive (c : HostCall) : (s.callPrelude c).beepActive = ((if timerPeriod ≤ c.now - s.lastTimerTick then countDown s.st else s.st) != 0#8) := by
  simp [State.callPrelude]; rfl
@[simp] theorem State.callPrelude_lastTimerTick (c : HostCall) : (s.callPrelude c).lastTimerTick = if timerPeriod ≤ c.now - s.lastTimerTick then c.now else s.lastTimerTick := by
  simp [State.callPrelude]; rfl
@[simp] theorem State.callPrelude_lastInstructionTick (c : HostCall) : (s.callPrelude c).lastInstructionTick = s.lastInstructionTick := by simp [State.callPrelude]
@[simp] theorem State.callPrelude_status (c : HostCall) : (s.callPrelude c).status = s.status := by simp [State.callPrelude]
@[simp] theorem State.callPrelude_call (c : HostCall) : (s.callPrelude c).call = c := by simp [State.callPrelude]
@[simp] theorem State.callPrelude_host (c : HostCall) : (s.callPrelude c).host = s.host := by simp [State.callPrelude]
@[simp] theorem State.callPrelude_turn (c : HostCall) : (s.callPrelude c).turn = s.turn := by simp [State.callPrelude]
@[simp] theorem State.callPrelude_instrPc (c : HostCall) : (s.callPrelude c).instrPc = s.instrPc := by simp [State.callPrelude]
@[simp] theorem State.callPrelude_instrWord (c : HostCall) : (s.callPrelude c).instrWord = s.instrWord := by simp [State.callPrelude]

/-! ### endCall -/

@[simp] theorem State.endCall_config (now : Nat) : (s.endCall now).config = s.config := by unfold State.endCall; split <;> rfl
@[simp] theorem State.endCall_v (now : Nat) : (s.endCall now).v = s.v := by unfold State.endCall; split <;> rfl
@[simp] theorem State.endCall_i (now : Nat) : (s.endCall now).i = s.i := by unfold State.endCall; split <;> rfl
@[simp] theorem State.endCall_pc (now : Nat) : (s.endCall now).pc = s.pc := by unfold State.endCall; split <;> rfl
@[simp] theorem State.endCall_sp (now : Nat) : (s.endCall now).sp = s.sp := by unfold State.endCall; split <;> rfl
@[simp] theorem State.endCall_stack (now : Nat) : (s.endCall now).stack = s.stack := by unfold State.endCall; split <;> rfl
@[simp] theorem State.endCall_dt (now : Nat) : (s.endCall now).dt = s.dt := by unfold State.endCall; split <;> rfl
@[simp] theorem State.endCall_st (now : Nat) : (s.endCall now).st = s.st := by unfold State.endCall; split <;> rfl
@[simp] theorem State.endCall_mem (now : Nat) : (s.endCall now).mem = s.mem := by unfold State.endCall; split <;> rfl
@[simp] theorem State.endCall_disp (now : Nat) : (s.endCall now).disp = s.disp := by unfold State.endCall; split <;> rfl
@[simp] theorem State.endCall_clearRequested (now : Nat) : (s.endCall now).clearRequested = s.clearRequested := by unfold State.endCall; split <;> rfl
@[simp] theorem State.endCall_displayDirty (now : Nat) : (s.endCall now).displayDirty = s.displayDirty := by unfold State.endCall; split <;> rfl
@[simp] theorem State.endCall_beepActive (now : Nat) : (s.endCall now).beepActive = s.beepActive := by unfold State.endCall; split <;> rfl
@[simp] theorem State.endCall_lastTimerTick (now : Nat) : (s.endCall now).lastTimerTick = s.lastTimerTick := by unfold State.endCall; split <;> rfl
@[simp] theorem State.endCall_lastInstructionTick (now : Nat) : (s.endCall now).lastInstructionTick = if s.status = .running then now else s.lastInstructionTick := by unfold State.endCall; split <;> rfl
@[simp] theorem State.endCall_status (now : Nat) : (s.endCall now).status = s.status := by unfold State.endCall; split <;> rfl
@[simp] theorem State.endCall_call (now : Nat) : (s.endCall now).call = s.call := by unfold State.endCall; split <;> rfl
@[simp] theorem State.endCall_host (now : Nat) : (s.endCall now).host = s.host := by unfold State.endCall; split <;> rfl
@[simp] theorem State.endCall_turn (now : Nat) : (s.endCall now).turn = s.turn := by unfold State.endCall; split <;> rfl
@[simp] theorem State.endCall_instrPc (now : Nat) : (s.endCall now).instrPc = s.instrPc := by unfold State.endCall; split <;> rfl
@[simp] theorem State.endCall_instrWord (now : Nat) : (s.endCall now).instrWord = s.instrWord := by unfold State.endCall; split <;> rfl

/-! ### keyRelease -/

@[simp] theorem State.keyRelease_config (x : Nibble) (t : Nat) (k : Nibble) : (s.keyRelease x t k).config = s.config := rfl
@[simp] theorem State.keyRelease_v (x : Nibble) (t : Nat) (k : Nibble) : (s.keyRelease x t k).v = s.v.set x.toNat (k.setWidth 8) x.isLt := rfl
@[simp] theorem State.keyRelease_i (x : Nibble) (t : Nat) (k : Nibble) : (s.keyRelease x t k).i = s.i := rfl
@[simp] theorem State.keyRelease_pc (x : Nibble) (t : Nat) (k : Nibble) : (s.keyRelease x t k).pc = s.pc := rfl
@[simp] theorem State.keyRelease_sp (x : Nibble) (t : Nat) (k : Nibble) : (s.keyRelease x t k).sp = s.sp := rfl
@[simp] theorem State.keyRelease_stack (x : Nibble) (t : Nat) (k : Nibble) : (s.keyRelease x t k).stack = s.stack := rfl
@[simp] theorem State.keyRelease_dt (x : Nibble) (t : Nat) (k : Nibble) : (s.keyRelease x t k).dt = s.dt := rfl
@[simp] theorem State.keyRelease_st (x : Nibble) (t : Nat) (k : Nibble) : (s.keyRelease x t k).st = s.st := rfl
@[simp] theorem State.keyRelease_mem (x : Nibble) (t : Nat) (k : Nibble) : (s.keyRelease x t k).mem = s.mem := rfl
@[simp] theorem State.keyRelease_disp (x : Nibble) (t : Nat) (k : Nibble) : (s.keyRelease x t k).disp = s.disp := rfl
@[simp] theorem State.keyRelease_clearRequested (x : Nibble) (t : Nat) (k : Nibble) : (s.keyRelease x t k).clearRequested = s.clearRequested := rfl
@[simp] theorem State.keyRelease_displayDirty (x : Nibble) (t : Nat) (k : Nibble) : (s.keyRelease x t k).displayDirty = s.displayDirty := rfl
@[simp] theorem State.keyRelease_beepActive (x : Nibble) (t : Nat) (k : Nibble) : (s.keyRelease x t k).beepActive = s.beepActive := rfl
@[simp] theorem State.keyRelease_lastTimerTick (x : Nibble) (t : Nat) (k : Nibble) : (s.keyRelease x t k).lastTimerTick = s.lastTimerTick := rfl
@[simp] theorem State.keyRelease_lastInstructionTick (x : Nibble) (t : Nat) (k : Nibble) : (s.keyRelease x t k).lastInstructionTick = t := rfl
@[simp] theorem State.keyRelease_status (x : Nibble) (t : Nat) (k : Nibble) : (s.keyRelease x t k).status = .running := rfl
@[simp] theorem State.keyRelease_call (x : Nibble) (t : Nat) (k : Nibble) : (s.keyRelease x t k).call = s.call := rfl
@[simp] theorem State.keyRelease_host (x : Nibble) (t : Nat) (k : Nibble) : (s.keyRelease x t k).host = s.host := rfl
@[simp] theorem State.keyRelease_turn (x : Nibble) (t : Nat) (k : Nibble) : (s.keyRelease x t k).turn = s.turn := rfl
@[simp] theorem State.keyRelease_instrPc (x : Nibble) (t : Nat) (k : Nibble) : (s.keyRelease x t k).instrPc = s.instrPc := rfl
@[simp] theorem State.keyRelease_instrWord (x : Nibble) (t : Nat) (k : Nibble) : (s.keyRelease x t k).instrWord = s.instrWord := rfl

/-! ### terminate -/

@[simp] theorem State.terminate_config : (s.terminate).config = s.config := rfl
@[simp] theorem State.terminate_v : (s.terminate).v = s.v := rfl
@[simp] theorem State.terminate_i : (s.terminate).i = s.i := rfl
@[simp] theorem State.terminate_pc : (s.terminate).pc = s.pc := rfl
@[simp] theorem State.terminate_sp : (s.terminate).sp = s.sp := rfl
@[simp] theorem State.terminate_stack : (s.terminate).stack = s.stack := rfl
@[simp] theorem State.terminate_dt : (s.terminate).dt = s.dt := rfl
@[simp] theorem State.terminate_st : (s.terminate).st = s.st := rfl
@[simp] theorem State.terminate_mem : (s.terminate).mem = s.mem := rfl
@[simp] theorem State.terminate_disp : (s.terminate).disp = s.disp := rfl
@[simp] theorem State.terminate_clearRequested : (s.terminate).clearRequested = s.clearRequested := rfl
@[simp] theorem State.terminate_displayDirty : (s.terminate).displayDirty = s.displayDirty := rfl
@[simp] theorem State.terminate_beepActive : (s.terminate).beepActive = s.beepActive := rfl
@[simp] theorem State.terminate_lastTimerTick : (s.terminate).lastTimerTick = s.lastTimerTick := rfl
@[simp] theorem State.terminate_lastInstructionTick : (s.terminate).lastInstructionTick = s.lastInstructionTick := rfl
@[simp] theorem State.terminate_status : (s.terminate).status = .terminated := rfl
@[simp] theorem State.terminate_call : (s.terminate).call = s.call := rfl
@[simp] theorem State.terminate_host : (s.terminate).host = s.host := rfl
@[simp] theorem State.terminate_turn : (s.terminate).turn = s.turn := rfl
@[simp] theorem State.terminate_instrPc : (s.terminate).instrPc = s.instrPc := rfl
@[simp] theorem State.terminate_instrWord : (s.terminate).instrWord = s.instrWord := rfl

/-! ### tookEvent -/

@[simp] theorem State.tookEvent_config : (s.tookEvent).config = s.config := by unfold State.tookEvent; split <;> rfl
@[simp] theorem State.tookEvent_v : (s.tookEvent).v = s.v := by unfold State.tookEvent; split <;> rfl
@[simp] theorem State.tookEvent_i : (s.tookEvent).i = s.i := by unfold State.tookEvent; split <;> rfl
@[simp] theorem State.tookEvent_pc : (s.tookEvent).pc = s.pc := by unfold State.tookEvent; split <;> rfl
@[simp] theorem State.tookEvent_sp : (s.tookEvent).sp = s.sp := by unfold State.tookEvent; split <;> rfl
@[simp] theorem State.tookEvent_stack : (s.tookEvent).stack = s.stack := by unfold State.tookEvent; split <;> rfl
@[simp] theorem State.tookEvent_dt : (s.tookEvent).dt = s.dt := by unfold State.tookEvent; split <;> rfl
@[simp] theorem State.tookEvent_st : (s.tookEvent).st = s.st := by unfold State.tookEvent; split <;> rfl
@[simp] theorem State.tookEvent_mem : (s.tookEvent).mem = s.mem := by unfold State.tookEvent; split <;> rfl
@[simp] theorem State.tookEvent_disp : (s.tookEvent).disp = s.disp := by unfold State.tookEvent; split <;> rfl
@[simp] theorem State.tookEvent_clearRequested : (s.tookEvent).clearRequested = s.clearRequested := by unfold State.tookEvent; split <;> rfl
@[simp] theorem State.tookEvent_displayDirty : (s.tookEvent).displayDirty = s.displayDirty := by unfold State.tookEvent; split <;> rfl
@[simp] theorem State.tookEvent_beepActive : (s.tookEvent).beepActive = s.beepActive := by unfold State.tookEvent; split <;> rfl
@[simp] theorem State.tookEvent_lastTimerTick : (s.tookEvent).lastTimerTick = s.lastTimerTick := by unfold State.tookEvent; split <;> rfl
@[simp] theorem State.tookEvent_lastInstructionTick : (s.tookEvent).lastInstructionTick = s.lastInstructionTick := by unfold State.tookEvent; split <;> rfl
@[simp] theorem State.tookEvent_status : (s.tookEvent).status = s.status := by unfold State.tookEvent; split <;> rfl
@[simp] theorem State.tookEvent_call : (s.tookEvent).call = s.call := by unfold State.tookEvent; split <;> rfl
@[simp] theorem State.tookEvent_instrPc : (s.tookEvent).instrPc = s.instrPc := by unfold State.tookEvent; split <;> rfl
@[simp] theorem State.tookEvent_instrWord : (s.tookEvent).instrWord = s.instrWord := by unfold State.tookEvent; split <;> rfl

end Sys2Proof.Machine
end

