-- ==== Sys2Proof/Laws/Memory.lean ====
section
/-! SUPPORT. The laws of memory (spec/20_memory.md R72, R73, R81): read after write, what a write leaves alone,
and the canonical form, which every write keeps and in which equal contents are equal data. -/

namespace Sys2Proof.Machine

/-! ## Entries -/

theorem Memory.lookup_insert_self (m : Memory) (a : Nat) (x : Byte) :
    (m.insert a x).lookup a = some x := by
  induction m with
  | nil => simp [Memory.insert, Memory.lookup]
  | cons p m ih =>
    obtain ⟨b, y⟩ := p
    simp only [Memory.insert]
    split
    · simp [Memory.lookup]
    · split
      · simp [Memory.lookup]
      · simp [Memory.lookup, *]

theorem Memory.lookup_insert_ne (m : Memory) {a b : Nat} (x : Byte) (h : b ≠ a) :
    (m.insert a x).lookup b = m.lookup b := by
  induction m with
  | nil => simp [Memory.insert, Memory.lookup, h]
  | cons p m ih =>
    obtain ⟨c, y⟩ := p
    simp only [Memory.insert]
    split
    · simp [Memory.lookup, h]
    · split
      · next hac => subst hac; simp [Memory.lookup, h]
      · simp [Memory.lookup, ih]

theorem Memory.lookup_erase_ne (m : Memory) {a b : Nat} (h : b ≠ a) :
    (m.erase a).lookup b = m.lookup b := by
  induction m with
  | nil => rfl
  | cons p m ih =>
    obtain ⟨c, y⟩ := p
    simp only [Memory.erase]
    split
    · next hac => subst hac; simp [Memory.lookup, h]
    · simp [Memory.lookup, ih]

/-- Below every listed address nothing is listed. -/
theorem Memory.lookup_none_of_lt (m : Memory) (a : Nat) (h : ∀ p ∈ m, a < p.1) :
    m.lookup a = none := by
  induction m with
  | nil => rfl
  | cons p m ih =>
    obtain ⟨b, y⟩ := p
    have hb : a < b := h (b, y) (by simp)
    simp only [Memory.lookup, if_neg (Nat.ne_of_lt hb)]
    exact ih fun q hq => h q (by simp [hq])

theorem Memory.mem_of_lookup {m : Memory} {a : Nat} {x : Byte} (h : m.lookup a = some x) :
    (a, x) ∈ m := by
  induction m with
  | nil => simp [Memory.lookup] at h
  | cons p m ih =>
    obtain ⟨b, y⟩ := p
    simp only [Memory.lookup] at h
    split at h
    · next hab => simp_all
    · exact List.mem_cons_of_mem _ (ih h)

theorem Memory.lookup_erase_self (m : Memory) (a : Nat)
    (h : m.Pairwise fun p q => p.1 < q.1) : (m.erase a).lookup a = none := by
  induction m with
  | nil => rfl
  | cons p m ih =>
    obtain ⟨b, y⟩ := p
    rw [List.pairwise_cons] at h
    simp only [Memory.erase]
    split
    · next hab => subst hab; exact Memory.lookup_none_of_lt m a h.1
    · next hab => simpa [Memory.lookup, hab] using ih h.2

theorem Memory.mem_insert_or {m : Memory} {a : Nat} {x : Byte} {p : Host.Cell}
    (h : p ∈ m.insert a x) : p = (a, x) ∨ p ∈ m := by
  induction m with
  | nil => simpa [Memory.insert] using h
  | cons q m ih =>
    obtain ⟨b, y⟩ := q
    simp only [Memory.insert] at h
    split at h
    · simpa using h
    · split at h
      · rcases List.mem_cons.1 h with h | h
        · exact .inl h
        · exact .inr (List.mem_cons_of_mem _ h)
      · rcases List.mem_cons.1 h with h | h
        · exact .inr (by simp [h])
        · exact (ih h).imp_right (List.mem_cons_of_mem _)

theorem Memory.mem_of_mem_erase {m : Memory} {a : Nat} {p : Host.Cell} (h : p ∈ m.erase a) :
    p ∈ m := by
  induction m with
  | nil => exact h
  | cons q m ih =>
    obtain ⟨b, y⟩ := q
    simp only [Memory.erase] at h
    split at h
    · exact List.mem_cons_of_mem _ h
    · rcases List.mem_cons.1 h with h | h
      · simp [h]
      · exact List.mem_cons_of_mem _ (ih h)

theorem Memory.pairwise_insert (m : Memory) (a : Nat) (x : Byte)
    (h : m.Pairwise fun p q => p.1 < q.1) : (m.insert a x).Pairwise fun p q => p.1 < q.1 := by
  induction m with
  | nil => simp [Memory.insert]
  | cons q m ih =>
    obtain ⟨b, y⟩ := q
    rw [List.pairwise_cons] at h
    simp only [Memory.insert]
    split
    · next hab =>
      refine List.pairwise_cons.2 ⟨fun p hp => ?_, List.pairwise_cons.2 h⟩
      rcases List.mem_cons.1 hp with hp | hp
      · simpa [hp] using hab
      · exact Nat.lt_trans hab (h.1 p hp)
    · split
      · next hab => subst hab; exact List.pairwise_cons.2 h
      · refine List.pairwise_cons.2 ⟨fun p hp => ?_, ih h.2⟩
        rcases Memory.mem_insert_or hp with hp | hp
        · simp only [hp]; omega
        · exact h.1 p hp

theorem Memory.pairwise_erase (m : Memory) (a : Nat)
    (h : m.Pairwise fun p q => p.1 < q.1) : (m.erase a).Pairwise fun p q => p.1 < q.1 := by
  induction m with
  | nil => exact h
  | cons q m ih =>
    obtain ⟨b, y⟩ := q
    rw [List.pairwise_cons] at h
    simp only [Memory.erase]
    split
    · exact h.2
    · exact List.pairwise_cons.2 ⟨fun p hp => h.1 p (Memory.mem_of_mem_erase hp), ih h.2⟩

/-! ## The canonical form -/

theorem Memory.wf_iff (c : Config) (m : Memory) :
    m.wf c = true ↔ (m.Pairwise fun p q => p.1 < q.1) ∧
      ∀ p ∈ m, p.1 < memSize ∧ p.2 ≠ c.image p.1 := by
  simp [Memory.wf, List.all_eq_true]

@[simp] theorem Memory.wf_nil (c : Config) : Memory.wf c [] = true := rfl

theorem Memory.wf_write {c : Config} {m : Memory} (a : Nat) (x : Byte) (h : m.wf c = true) :
    (m.write c a x).wf c = true := by
  rw [Memory.wf_iff] at h
  unfold Memory.write
  split
  · exact (Memory.wf_iff c m).2 h
  · next ha =>
    split
    · exact (Memory.wf_iff _ _).2
        ⟨m.pairwise_erase a h.1, fun p hp => h.2 p (Memory.mem_of_mem_erase hp)⟩
    · next hx =>
      refine (Memory.wf_iff _ _).2 ⟨m.pairwise_insert a x h.1, fun p hp => ?_⟩
      rcases Memory.mem_insert_or hp with hp | hp
      · subst hp; exact ⟨Nat.lt_of_not_le ha, hx⟩
      · exact h.2 p hp

/-! ## Read after write -/

theorem Memory.read_write_self {c : Config} {m : Memory} {a : Nat} (x : Byte)
    (h : m.wf c = true) (ha : a < memSize) : (m.write c a x).read c a = x := by
  rw [Memory.wf_iff] at h
  unfold Memory.write Memory.read
  rw [if_neg (Nat.not_le.2 ha)]
  split
  · next hx => rw [m.lookup_erase_self a h.1, hx]; rfl
  · rw [Memory.lookup_insert_self]; rfl

theorem Memory.read_write_ne (c : Config) (m : Memory) {a b : Nat} (x : Byte) (h : b ≠ a) :
    (m.write c a x).read c b = m.read c b := by
  unfold Memory.write Memory.read
  split
  · rfl
  · split
    · rw [m.lookup_erase_ne h]
    · rw [m.lookup_insert_ne x h]

/-! ## Bytes of the state -/

/-- One byte read after one byte written, in every case. -/
theorem State.byteAt_setByte {s : State} (h : s.mem.wf s.config = true) (a b : Nat) (x : Byte) :
    (s.setByte a x).byteAt b = if b = a ∧ a < 0x1000 then x else s.byteAt b := by
  simp only [State.byteAt, State.setByte_mem, State.setByte_config]
  by_cases hb : b = a
  · subst hb
    by_cases ha : b < 0x1000
    · simp [ha, Memory.read_write_self x h ha]
    · simp [ha, Memory.write, Nat.not_lt.1 ha]
  · simp [hb, Memory.read_write_ne _ _ x hb]

theorem State.setByte_wf {s : State} (h : s.mem.wf s.config = true) (a : Nat) (x : Byte) :
    (s.setByte a x).mem.wf (s.setByte a x).config = true := Memory.wf_write a x h

/-- Storing bytes changes memory and nothing else. -/
theorem State.storeBytes_eq (s : State) (base : Nat) (xs : List Byte) :
    s.storeBytes base xs = { s with mem := (s.storeBytes base xs).mem } := by
  induction xs generalizing s base with
  | nil => rfl
  | cons x xs ih =>
    have h := ih (s.setByte base x) (base + 1)
    simp only [State.storeBytes]
    rw [h]
    rfl

@[simp] theorem State.storeBytes_config (s : State) (base : Nat) (xs : List Byte) :
    (s.storeBytes base xs).config = s.config := by rw [State.storeBytes_eq]

theorem State.storeBytes_wf {s : State} (h : s.mem.wf s.config = true) (base : Nat)
    (xs : List Byte) : (s.storeBytes base xs).mem.wf s.config = true := by
  induction xs generalizing s base with
  | nil => exact h
  | cons x xs ih => exact ih (s := s.setByte base x) (Memory.wf_write base x h) (base + 1)

/-- What a byte reads as after bytes have been stored: the stored byte in the range stored to, else as
before. -/
theorem State.byteAt_storeBytes {s : State} (h : s.mem.wf s.config = true) (base : Nat)
    (xs : List Byte) (b : Nat) :
    (s.storeBytes base xs).byteAt b =
      if base ≤ b ∧ b < base + xs.length ∧ b < 0x1000 then xs.getD (b - base) 0#8
      else s.byteAt b := by
  induction xs generalizing s base with
  | nil =>
    have : ¬ (base ≤ b ∧ b < base + ([] : List Byte).length ∧ b < 0x1000) := by
      simp; omega
    rw [if_neg this]; rfl
  | cons x xs ih =>
    simp only [State.storeBytes]
    rw [ih (State.setByte_wf h base x), State.byteAt_setByte h, List.length_cons]
    by_cases hb : b = base
    · subst hb
      rw [if_neg (by omega)]
      by_cases hm : b < 0x1000 <;> simp [hm]
    · rw [if_neg (c := b = base ∧ base < 0x1000) (by omega)]
      by_cases hr : base + 1 ≤ b ∧ b < base + 1 + xs.length ∧ b < 0x1000
      · rw [if_pos hr, if_pos (by omega)]
        obtain ⟨k, rfl⟩ : ∃ k, b = base + 1 + k := ⟨b - (base + 1), by omega⟩
        rw [show base + 1 + k - base = k + 1 by omega, show base + 1 + k - (base + 1) = k by omega]
        rfl
      · rw [if_neg hr, if_neg (by omega)]

theorem State.bytesFrom_length (s : State) (base n : Nat) : (s.bytesFrom base n).length = n := by
  induction n generalizing base with
  | zero => rfl
  | succ n ih => simp [State.bytesFrom, ih]

theorem State.bytesFrom_getD (s : State) (base n r : Nat) (h : r < n) :
    (s.bytesFrom base n).getD r 0#8 = s.byteAt (base + r) := by
  induction n generalizing base r with
  | zero => omega
  | succ n ih =>
    cases r with
    | zero => rfl
    | succ r =>
      have := ih (base + 1) r (by omega)
      rw [show base + (r + 1) = base + 1 + r by omega, ← this]
      rfl

/-- Whether a range check raises, and with which address (R74). -/
theorem rangeFault_eq (base len : Nat) :
    rangeFault base len =
      if 0 < len ∧ 0xFFF < base + len - 1 then some (max base 0x1000) else none := by
  unfold rangeFault memSize
  congr 1

theorem rangeFault_none {base len : Nat} (h : base + len ≤ 0x1000) : rangeFault base len = none := by
  rw [rangeFault_eq, if_neg (by omega)]

theorem rangeFault_some {base len : Nat} (hl : 0 < len) (h : 0x1000 < base + len) :
    rangeFault base len = some (max base 0x1000) := by
  rw [rangeFault_eq, if_pos (by omega)]

/-- A checked access either has its whole effect or raises MEM_OUT_OF_RANGE with none of it (R74). -/
theorem State.checked_cases (s t : State) (base len : Nat) :
    (s.checked base len t = t ∧ rangeFault base len = none) ∨
    (∃ a, rangeFault base len = some a ∧
      s.checked base len t = s.raiseInstr .memOutOfRange (some a)) := by
  unfold State.checked
  cases rangeFault base len with
  | none => exact .inl ⟨rfl, rfl⟩
  | some a => exact .inr ⟨a, rfl, rfl⟩

end Sys2Proof.Machine
end

