-- ==== Sys2Proof/Laws/Registers.lean ====
section
/-! SUPPORT. The laws of the registers, the register loops of Fx55 and Fx65, the call stack and PC. -/

namespace Sys2Proof.Machine

variable (s : State)

/-- One register read after one register written. -/
theorem State.reg_setReg (x j : Nibble) (b : Byte) :
    (s.setReg x b).reg j = if j = x then b else s.reg j := by
  unfold State.reg
  simp only [State.setReg_v]
  by_cases h : j = x
  · subst h; simp
  · have : x.toNat ≠ j.toNat := fun e => h (BitVec.eq_of_toNat_eq e.symm)
    simp [h, Vector.getElem_set_ne _ _ this]

@[simp] theorem State.reg_setReg_self (x : Nibble) (b : Byte) : (s.setReg x b).reg x = b := by
  simp [State.reg_setReg]

theorem State.reg_setReg_ne {x j : Nibble} (b : Byte) (h : j ≠ x) :
    (s.setReg x b).reg j = s.reg j := by
  simp [State.reg_setReg, h]

/-- The flag is written last: VF holds it whatever x is (R220). -/
theorem State.reg_setResultAndFlag (x j : Nibble) (r f : Byte) :
    (s.setResultAndFlag x r f).reg j = if j = vf then f else if j = x then r else s.reg j := by
  simp [State.setResultAndFlag, State.reg_setReg]

/-- Only the register array decides a register. -/
theorem State.reg_congr {s t : State} (h : s.v = t.v) (j : Nibble) : s.reg j = t.reg j := by
  simp only [State.reg, h]

/-- Only the configuration and memory decide a byte. -/
theorem State.byteAt_congr {s t : State} (hc : s.config = t.config) (hm : s.mem = t.mem) (a : Nat) :
    s.byteAt a = t.byteAt a := by
  simp only [State.byteAt, hc, hm]

theorem State.regsFrom_length (j n : Nat) : (s.regsFrom j n).length = n := by
  induction n generalizing j with
  | zero => rfl
  | succ n ih => simp [State.regsFrom, ih]

theorem State.regsFrom_getD (j n r : Nat) (h : r < n) :
    (s.regsFrom j n).getD r 0#8 = s.reg (BitVec.ofNat 4 (j + r)) := by
  induction n generalizing j r with
  | zero => omega
  | succ n ih =>
    cases r with
    | zero => rfl
    | succ r =>
      have := ih (j + 1) r (by omega)
      rw [show j + (r + 1) = j + 1 + r by omega, ← this]
      rfl

/-- Loading registers changes the register array and nothing else. -/
theorem State.loadRegs_eq (base n : Nat) :
    s.loadRegs base n = { s with v := (s.loadRegs base n).v } := by
  induction n with
  | zero => rfl
  | succ n ih =>
    simp only [State.loadRegs]
    rw [ih]
    rfl

/-- What a register holds after a load: the byte at its place in the range, else as before. -/
theorem State.reg_loadRegs (base n : Nat) (hn : n ≤ 16) (j : Nibble) :
    (s.loadRegs base n).reg j = if j.toNat < n then s.byteAt (base + j.toNat) else s.reg j := by
  induction n with
  | zero => rfl
  | succ n ih =>
    simp only [State.loadRegs]
    rw [State.reg_setReg, ih (by omega)]
    have hto : (BitVec.ofNat 4 n).toNat = n := by
      rw [BitVec.toNat_ofNat]; exact Nat.mod_eq_of_lt (by omega)
    by_cases hj : j = BitVec.ofNat 4 n
    · subst hj; simp only [hto, if_true]; rw [if_pos (by omega)]
    · have hne : j.toNat ≠ n := fun e => hj (BitVec.eq_of_toNat_eq (by rw [hto, e]))
      rw [if_neg hj]
      by_cases hlt : j.toNat < n
      · rw [if_pos hlt, if_pos (by omega)]
      · rw [if_neg hlt, if_neg (by omega)]

/-- A push below the cap (R180). -/
theorem State.push?_some (w : Word) (h : s.sp.val < 16) :
    s.push? w = some { s with stack := s.stack.set s.sp.val w h, sp := ⟨s.sp.val + 1, by omega⟩ } := by
  simp [State.push?, h]

theorem State.push?_none (w : Word) (h : s.sp.val = 16) : s.push? w = none := by
  simp [State.push?, h]

/-- A pop above the floor (R180). -/
theorem State.pop?_some (h : 0 < s.sp.val) :
    s.pop? = some (s.stack[s.sp.val - 1]'(by omega), { s with sp := ⟨s.sp.val - 1, by omega⟩ }) := by
  simp [State.pop?, h]

theorem State.pop?_none (h : s.sp.val = 0) : s.pop? = none := by
  simp [State.pop?, h]

theorem State.skipIf_true : s.skipIf true = s.skip := rfl

theorem State.skipIf_false : s.skipIf false = s := rfl

end Sys2Proof.Machine
end

