-- ==== Sys2Proof/Laws/Display.lean ====
section
/-! SUPPORT. The laws of the display: pixels after a write, and what the two drawing loops of Dxyn do to every
pixel and to the collision (spec/41_display.md R161 to R163). -/

namespace Sys2Proof.Machine

/-- One pixel read after one pixel written. -/
theorem Display.get_set (d : Display) (y x y' x' : Nat) (b : Bool) :
    (d.set y x b).get y' x' = if y' = y ∧ x' = x ∧ y < 32 ∧ x < 64 then b else d.get y' x' := by
  unfold Display.set
  split
  · next h =>
    unfold Display.get
    by_cases h' : y' < 32 ∧ x' < 64
    · by_cases hy : y' = y
      · subst hy
        by_cases hx : x' = x
        · subst hx; simp [h']
        · simp [h', hx, Vector.getElem_set_ne _ _ (Ne.symm hx)]
      · simp [h', hy, Vector.getElem_set_ne _ _ (Ne.symm hy)]
    · rw [dif_neg h', dif_neg h', if_neg (by omega)]
  · next h => rw [if_neg (by omega)]

@[simp] theorem Display.get_clear (y x : Nat) : Display.clear.get y x = false := by
  unfold Display.get Display.clear
  split <;> simp

/-- Two displays with the same pixels are the same display. -/
theorem Display.ext_get {d e : Display} (h : ∀ y x, y < 32 → x < 64 → d.get y x = e.get y x) :
    d = e := by
  apply Vector.ext
  intro y hy
  apply Vector.ext
  intro x hx
  have := h y x hy hx
  simpa [Display.get, hy, hx] using this

/-- A sprite bit flips its pixel (R161). -/
theorem drawPixel_get (k : Canvas) (y x y' x' : Nat) (b : Bool) (hy : y < 32) (hx : x < 64) :
    (drawPixel k y x b).disp.get y' x' =
      (k.disp.get y' x' ^^ (b && decide (y' = y ∧ x' = x))) := by
  unfold drawPixel
  by_cases he : y' = y ∧ x' = x
  · obtain ⟨rfl, rfl⟩ := he
    cases b <;> cases hd : k.disp.get y' x' <;> simp [Display.get_set, hy, hx, hd]
  · cases b <;> cases k.disp.get y x <;> simp [Display.get_set, he, hy, hx]

/-- A sprite bit collides exactly when it is 1 on a set pixel (R161). -/
theorem drawPixel_hit (k : Canvas) (y x : Nat) (b : Bool) :
    (drawPixel k y x b).hit = (k.hit || (b && k.disp.get y x)) := by
  unfold drawPixel
  cases b <;> cases k.disp.get y x <;> simp

/-- The bit of a row byte that falls on column x, the row starting at column px with `n` columns left
(the columns px + 8 - n to px + 7): bit 7 at px, bit 0 at px + 7 (R163). -/
def rowBit (row : Byte) (px n x : Nat) : Bool :=
  decide (px + (8 - n) ≤ x ∧ x ≤ px + 7) && row.getLsbD (7 - (x - px))

/-- A row flips the pixels its 1 bits fall on, and those of its own display row only. -/
theorem drawRow_get (row : Byte) (y px n : Nat) (k : Canvas) (hn : n ≤ 8) (hy : y < 32) (y' x' : Nat)
    (hx' : x' < 64) :
    (drawRow row y px n k).disp.get y' x' =
      (k.disp.get y' x' ^^ (decide (y' = y) && rowBit row px n x')) := by
  induction n generalizing k with
  | zero =>
    have : rowBit row px 0 x' = false := by simp only [rowBit]; rw [decide_eq_false (by omega)]; rfl
    simp [drawRow, this]
  | succ n ih =>
    simp only [drawRow]
    by_cases hc : 63 < px + (7 - n)
    · rw [if_pos hc]
      have : rowBit row px (n + 1) x' = false := by
        simp only [rowBit]; rw [decide_eq_false (by omega)]; rfl
      simp [this]
    · rw [if_neg hc, ih _ (by omega), drawPixel_get _ _ _ _ _ _ hy (by omega)]
      by_cases hy' : y' = y
      · by_cases hx : x' = px + (7 - n)
        · have h1 : rowBit row px n x' = false := by
            simp only [rowBit]; rw [decide_eq_false (by omega)]; rfl
          have h2 : rowBit row px (n + 1) x' = row.getLsbD n := by
            simp only [rowBit]
            rw [decide_eq_true (by omega), show 7 - (x' - px) = n by omega]; rfl
          rw [h1, h2]; simp [hy', hx]
        · have h1 : rowBit row px (n + 1) x' = rowBit row px n x' := by
            simp only [rowBit]
            congr 1
            rw [decide_eq_decide]; omega
          rw [h1]; simp [hx]
      · simp [hy']

/-- A row collides exactly when one of its 1 bits falls on a set pixel of the screen. -/
theorem drawRow_hit (row : Byte) (y px n : Nat) (k : Canvas) (hn : n ≤ 8) (hy : y < 32) :
    (drawRow row y px n k).hit = true ↔
      k.hit = true ∨ ∃ x, x < 64 ∧ rowBit row px n x = true ∧ k.disp.get y x = true := by
  induction n generalizing k with
  | zero =>
    have : ∀ x, rowBit row px 0 x = false := fun x => by
      simp only [rowBit]; rw [decide_eq_false (by omega)]; rfl
    simp [drawRow, this]
  | succ n ih =>
    simp only [drawRow]
    by_cases hc : 63 < px + (7 - n)
    · rw [if_pos hc]
      have : ∀ x, x < 64 → rowBit row px (n + 1) x = false := fun x hx => by
        simp only [rowBit]; rw [decide_eq_false (by omega)]; rfl
      constructor
      · exact .inl
      · rintro (h | ⟨x, hx, h, -⟩)
        · exact h
        · simp [this x hx] at h
    · rw [if_neg hc, ih _ (by omega), drawPixel_hit]
      simp only [drawPixel_get _ _ _ _ _ _ hy (show px + (7 - n) < 64 by omega)]
      have hlast : rowBit row px (n + 1) (px + (7 - n)) = row.getLsbD n := by
        simp only [rowBit]
        rw [decide_eq_true (by omega), show 7 - (px + (7 - n) - px) = n by omega]; rfl
      have hstep : ∀ x, x ≠ px + (7 - n) → rowBit row px (n + 1) x = rowBit row px n x := by
        intro x hx
        simp only [rowBit]; congr 1; rw [decide_eq_decide]; omega
      have hnot : rowBit row px n (px + (7 - n)) = false := by
        simp only [rowBit]; rw [decide_eq_false (by omega)]; rfl
      constructor
      · rintro (h | ⟨x, hx, hb, hp⟩)
        · rcases Bool.or_eq_true_iff.1 h with h | h
          · exact .inl h
          · rw [Bool.and_eq_true] at h
            exact .inr ⟨_, by omega, hlast.trans h.1, h.2⟩
        · have hne : x ≠ px + (7 - n) := by rintro rfl; simp [hnot] at hb
          exact .inr ⟨x, hx, (hstep x hne).trans hb, by simpa [hne] using hp⟩
      · rintro (h | ⟨x, hx, hb, hp⟩)
        · exact .inl (by simp [h])
        · by_cases hne : x = px + (7 - n)
          · subst hne
            exact .inl (by simp [hlast.symm.trans hb, hp])
          · exact .inr ⟨x, hx, (hstep x hne).symm.trans hb, by simpa [hne] using hp⟩

/-- The sprite bit that falls on row y and column x of the screen, the sprite's rows being `rows` and its
start position (py, px); false where the sprite has none (R161 to R163). -/
def spriteBit (rows : List Byte) (py px y x : Nat) : Bool :=
  decide (py ≤ y ∧ y < py + rows.length) && rowBit (rows.getD (y - py) 0#8) px 8 x

theorem spriteBit_cons (row : Byte) (rows : List Byte) (py px y x : Nat) :
    spriteBit (row :: rows) py px y x =
      if y = py then rowBit row px 8 x else spriteBit rows (py + 1) px y x := by
  unfold spriteBit
  by_cases h : y = py
  · subst h; simp
  · rw [if_neg h]
    by_cases hr : py + 1 ≤ y ∧ y < py + 1 + rows.length
    · obtain ⟨d, rfl⟩ : ∃ d, y = py + 1 + d := ⟨y - (py + 1), by omega⟩
      rw [show py + 1 + d - py = d + 1 by omega, show py + 1 + d - (py + 1) = d by omega]
      rw [decide_eq_true hr, decide_eq_true (by simp only [List.length_cons]; omega)]
      rfl
    · rw [decide_eq_false hr, decide_eq_false (by simp only [List.length_cons]; omega)]
      rfl

/-- A sprite flips the pixels of the screen its 1 bits fall on, and no other. -/
theorem drawRows_get (px : Nat) (rows : List Byte) (py : Nat) (k : Canvas) (y x : Nat)
    (hy : y < 32) (hx : x < 64) :
    (drawRows px rows py k).disp.get y x = (k.disp.get y x ^^ spriteBit rows py px y x) := by
  induction rows generalizing py k with
  | nil =>
    have : spriteBit [] py px y x = false := by
      simp only [spriteBit]; rw [decide_eq_false (by simp)]; rfl
    simp [drawRows, this]
  | cons row rows ih =>
    simp only [drawRows]
    by_cases hc : 31 < py
    · rw [if_pos hc]
      have : spriteBit (row :: rows) py px y x = false := by
        simp only [spriteBit]; rw [decide_eq_false (by omega)]; rfl
      simp [this]
    · rw [if_neg hc, ih, drawRow_get _ _ _ _ _ (by omega) (by omega) _ _ hx, spriteBit_cons]
      by_cases hy' : y = py
      · subst hy'
        have : spriteBit rows (y + 1) px y x = false := by
          simp only [spriteBit]; rw [decide_eq_false (by omega)]; rfl
        simp [this]
      · simp [hy']

/-- A sprite collides exactly when one of its 1 bits falls on a set pixel of the screen. -/
theorem drawRows_hit (px : Nat) (rows : List Byte) (py : Nat) (k : Canvas) :
    (drawRows px rows py k).hit = true ↔
      k.hit = true ∨
      ∃ y x, y < 32 ∧ x < 64 ∧ spriteBit rows py px y x = true ∧ k.disp.get y x = true := by
  induction rows generalizing py k with
  | nil =>
    have : ∀ y x, spriteBit [] py px y x = false := fun y x => by
      simp only [spriteBit]; rw [decide_eq_false (by simp)]; rfl
    simp [drawRows, this]
  | cons row rows ih =>
    simp only [drawRows]
    by_cases hc : 31 < py
    · rw [if_pos hc]
      constructor
      · exact .inl
      · rintro (h | ⟨y, x, hy, hx, hb, -⟩)
        · exact h
        · simp only [spriteBit] at hb
          rw [decide_eq_false (by omega)] at hb
          simp at hb
    · rw [if_neg hc, ih, drawRow_hit _ _ _ _ _ (by omega) (by omega)]
      have hcur : ∀ x, spriteBit rows (py + 1) px py x = false := fun x => by
        simp only [spriteBit]; rw [decide_eq_false (by omega)]; rfl
      constructor
      · rintro ((h | ⟨x, hx, hb, hp⟩) | ⟨y, x, hy, hx, hb, hp⟩)
        · exact .inl h
        · exact .inr ⟨py, x, by omega, hx, by simp [spriteBit_cons, hb], hp⟩
        · have hne : y ≠ py := by rintro rfl; simp [hcur] at hb
          refine .inr ⟨y, x, hy, hx, by simp [spriteBit_cons, hne, hb], ?_⟩
          rw [drawRow_get _ _ _ _ _ (by omega) (by omega) _ _ hx] at hp
          simpa [hne] using hp
      · rintro (h | ⟨y, x, hy, hx, hb, hp⟩)
        · exact .inl (.inl h)
        · rw [spriteBit_cons] at hb
          by_cases hne : y = py
          · subst hne
            exact .inl (.inr ⟨x, hx, by simpa using hb, hp⟩)
          · rw [if_neg hne] at hb
            refine .inr ⟨y, x, hy, hx, hb, ?_⟩
            rw [drawRow_get _ _ _ _ _ (by omega) (by omega) _ _ hx]
            simpa [hne] using hp

end Sys2Proof.Machine
end

