-- ==== Sys2Proof/Laws/Cycle.lean ====
section
/-! SUPPORT. What one step can do, said once: the cases of a host's turn, of a `cycle` call and of an
instruction (spec/40_pipeline.md R130 to R158, spec/45_timers_input.md R284). -/

namespace Sys2Proof.Machine

/-- An instruction step that answers a next state: the fetch faulted, or the decoded word executed. -/
theorem State.instruction_cases {s t : State} (h : s.instruction = .next t) :
    (0xFFE < s.pc.toNat ∧ t = s.raise (FaultRecord.mk .fetchOutOfRange s.pc none none)) ∨
    (s.pc.toNat ≤ 0xFFE ∧ exec (decodeWord s.fetchWord) s.fetched = .next t) := by
  unfold State.instruction at h
  split at h
  · next hp => cases h; exact .inl ⟨hp, rfl⟩
  · next hp => exact .inr ⟨Nat.le_of_not_lt hp, h⟩

theorem endOutcome_next {now : Nat} {o : Host.Outcome State Fault Refusal} {t : State}
    (h : endOutcome now o = .next t) : ∃ u, o = .next u ∧ t = u.endCall now := by
  cases o with
  | next u => exact ⟨u, rfl, by cases h; rfl⟩
  | fault r => cases h
  | refused r => cases h

/-- A `cycle` call that answers a next state (R150). -/
theorem State.cycle_cases {s t : State} {c : HostCall} (h : s.cycle c = .next t) :
    (s.timeRegresses c.now = true ∧
      t = s.raise (FaultRecord.mk .hostTimeRegression s.pc none (some c.now))) ∨
    (s.timeRegresses c.now = false ∧ s.gateOpen c.now = false ∧ t = s.callPrelude c) ∨
    (s.timeRegresses c.now = false ∧ s.gateOpen c.now = true ∧
      ∃ u, (s.callPrelude c).instruction = .next u ∧ t = u.endCall c.now) := by
  unfold State.cycle at h
  split at h
  · next hr => cases h; exact .inl ⟨hr, rfl⟩
  · next hr =>
    have hr := Bool.eq_false_iff.2 hr
    split at h
    · next hg => exact .inr (.inr ⟨hr, hg, endOutcome_next h⟩)
    · next hg => cases h; exact .inr (.inl ⟨hr, Bool.eq_false_iff.2 hg, rfl⟩)

/-- A step that answers a next state: the status was Running or WaitingKey, and the host made no
transaction, a `cycle` call, a key-down or a termination. -/
theorem step_cases {s t : State} (h : step s = .next t) :
    ((s.status = .running ∨ ∃ x u, s.status = .waitingKey x u) ∧ t = s.tookEvent) ∨
    (∃ c, s.status = .running ∧ s.nextEvent = some (.cycle c) ∧ s.tookEvent.cycle c = .next t) ∨
    (∃ x u k, s.status = .waitingKey x u ∧ s.nextEvent = some (.keyDown k) ∧
      t = s.tookEvent.keyRelease x u k) ∨
    (∃ x u, s.status = .waitingKey x u ∧ s.nextEvent = some .terminate ∧
      t = s.tookEvent.terminate) := by
  unfold step State.hostTurn at h
  cases hs : s.status with
  | faulted r => simp [hs] at h
  | terminated => simp [hs] at h
  | running =>
    simp only [hs] at h
    cases he : s.nextEvent with
    | none => simp only [he] at h; cases h; exact .inl ⟨.inl rfl, rfl⟩
    | some e =>
      cases e <;> simp only [he, State.accept, State.tookEvent_status, hs] at h
      case cycle c => exact .inr (.inl ⟨c, rfl, rfl, h⟩)
      all_goals cases h; exact .inl ⟨.inl rfl, rfl⟩
  | waitingKey x u =>
    simp only [hs] at h
    cases he : s.nextEvent with
    | none => simp only [he] at h; cases h; exact .inl ⟨.inr ⟨x, u, rfl⟩, rfl⟩
    | some e =>
      cases e <;> simp only [he, State.accept, State.tookEvent_status, hs] at h
      case cycle c => cases h; exact .inl ⟨.inr ⟨x, u, rfl⟩, rfl⟩
      case keyDown k => cases h; exact .inr (.inr (.inl ⟨x, u, k, rfl, rfl, rfl⟩))
      case terminate => cases h; exact .inr (.inr (.inr ⟨x, u, rfl, rfl, rfl⟩))

/-- With a `cycle` call listed, a Running machine takes it. -/
theorem step_of_cycle {s : State} {c : HostCall} {es : List HostEvent} (hs : s.status = .running)
    (hh : s.host = .cycle c :: es) : step s = State.cycle { s with host := es } c := by
  simp [step, State.hostTurn, State.nextEvent, State.tookEvent, State.accept, hs, hh]

/-- The call that `withFetchWord` puts first opens the instruction gate and regresses no marker. -/
theorem State.earliestCall_opens (s : State) :
    s.timeRegresses s.earliestCall = false ∧ s.gateOpen s.earliestCall = true := by
  have h := Nat.le_max_right s.lastTimerTick
    (s.lastInstructionTick + Config.instructionPeriod s.config)
  have h' := Nat.le_max_left s.lastTimerTick
    (s.lastInstructionTick + Config.instructionPeriod s.config)
  constructor
  · unfold State.timeRegresses State.earliestCall
    exact decide_eq_false (by omega)
  · unfold State.gateOpen State.earliestCall
    exact decide_eq_true (by omega)

/-- The two bytes of a word give the word back (R77). -/
theorem wordOfBytes_bytes (w : Word) : wordOfBytes (highByte w) (lowByte w) = w := by
  apply BitVec.eq_of_getLsbD_eq
  intro k hk
  simp only [wordOfBytes, highByte, lowByte, BitVec.getLsbD_append, BitVec.getLsbD_extractLsb']
  by_cases h : k < 8
  · simp [h]
  · simp only [h, if_false]
    rw [decide_eq_true (by omega), show 8 + (k - 8) = k by omega]
    rfl

end Sys2Proof.Machine
end

