-- ==== Sys2Proof/Laws/PerInstr.lean ====
section
/-! SUPPORT. Laws made per instruction: the encoder's word has the fixed bits of the instruction's row in
spec/opcode_table.json (its `mask` and `match`), for every operand. -/

namespace Sys2Proof.Laws

/-- The `mask` of an instruction's row. -/
def rowMask : Instr → Word
  | .cls => 0xFFFF#16
  | .ret => 0xFFFF#16
  | .jp _ => 0xF000#16
  | .call _ => 0xF000#16
  | .seImm _ _ => 0xF000#16
  | .sneImm _ _ => 0xF000#16
  | .seReg _ _ => 0xF00F#16
  | .ldImm _ _ => 0xF000#16
  | .addImm _ _ => 0xF000#16
  | .ldReg _ _ => 0xF00F#16
  | .orReg _ _ => 0xF00F#16
  | .andReg _ _ => 0xF00F#16
  | .xorReg _ _ => 0xF00F#16
  | .addReg _ _ => 0xF00F#16
  | .subReg _ _ => 0xF00F#16
  | .shr _ _ => 0xF00F#16
  | .subnReg _ _ => 0xF00F#16
  | .shl _ _ => 0xF00F#16
  | .sneReg _ _ => 0xF00F#16
  | .ldI _ => 0xF000#16
  | .jpV0 _ => 0xF000#16
  | .rnd _ _ => 0xF000#16
  | .drw _ _ _ => 0xF000#16
  | .skp _ => 0xF0FF#16
  | .sknp _ => 0xF0FF#16
  | .ldVxDt _ => 0xF0FF#16
  | .ldVxK _ => 0xF0FF#16
  | .ldDtVx _ => 0xF0FF#16
  | .ldStVx _ => 0xF0FF#16
  | .addI _ => 0xF0FF#16
  | .ldF _ => 0xF0FF#16
  | .ldB _ => 0xF0FF#16
  | .stRegs _ => 0xF0FF#16
  | .ldRegs _ => 0xF0FF#16
  | .nop0 _ => 0xF000#16
  | .nop _ => 0x0000#16

/-- The `match` of an instruction's row. -/
def rowMatch : Instr → Word
  | .cls => 0x00E0#16
  | .ret => 0x00EE#16
  | .jp _ => 0x1000#16
  | .call _ => 0x2000#16
  | .seImm _ _ => 0x3000#16
  | .sneImm _ _ => 0x4000#16
  | .seReg _ _ => 0x5000#16
  | .ldImm _ _ => 0x6000#16
  | .addImm _ _ => 0x7000#16
  | .ldReg _ _ => 0x8000#16
  | .orReg _ _ => 0x8001#16
  | .andReg _ _ => 0x8002#16
  | .xorReg _ _ => 0x8003#16
  | .addReg _ _ => 0x8004#16
  | .subReg _ _ => 0x8005#16
  | .shr _ _ => 0x8006#16
  | .subnReg _ _ => 0x8007#16
  | .shl _ _ => 0x800E#16
  | .sneReg _ _ => 0x9000#16
  | .ldI _ => 0xA000#16
  | .jpV0 _ => 0xB000#16
  | .rnd _ _ => 0xC000#16
  | .drw _ _ _ => 0xD000#16
  | .skp _ => 0xE09E#16
  | .sknp _ => 0xE0A1#16
  | .ldVxDt _ => 0xF007#16
  | .ldVxK _ => 0xF00A#16
  | .ldDtVx _ => 0xF015#16
  | .ldStVx _ => 0xF018#16
  | .addI _ => 0xF01E#16
  | .ldF _ => 0xF029#16
  | .ldB _ => 0xF033#16
  | .stRegs _ => 0xF055#16
  | .ldRegs _ => 0xF065#16
  | .nop0 _ => 0x0000#16
  | .nop _ => 0x0000#16

/-- The bits of a word of format A12. -/
theorem getLsbD_wordA12 (op : Nibble) (nnn : Addr12) (k : Nat) :
    (wordA12 op nnn).getLsbD k = if k < 12 then nnn.getLsbD k else op.getLsbD (k - 12) :=
  BitVec.getLsbD_append

/-- The bits of a word of format XB or XS. -/
theorem getLsbD_wordXB (op x : Nibble) (nn : Byte) (k : Nat) :
    (wordXB op x nn).getLsbD k =
      if k < 8 then nn.getLsbD k
      else if k - 8 < 4 then x.getLsbD (k - 8) else op.getLsbD (k - 8 - 4) :=
  BitVec.getLsbD_append.trans (by rw [BitVec.getLsbD_append])

/-- The bits of a word of four nibbles. -/
theorem getLsbD_wordOfNibbles (a b c d : Nibble) (k : Nat) :
    (wordOfNibbles a b c d).getLsbD k =
      if k < 4 then d.getLsbD k
      else if k - 4 < 4 then c.getLsbD (k - 4)
      else if k - 4 - 4 < 4 then b.getLsbD (k - 4 - 4) else a.getLsbD (k - 4 - 4 - 4) :=
  BitVec.getLsbD_append.trans (by rw [BitVec.getLsbD_append, BitVec.getLsbD_append])

theorem mask_wordA12 (op : Nibble) (nnn : Addr12) : wordA12 op nnn &&& 0xF000#16 = wordA12 op 0#12 := by
  apply BitVec.eq_of_getLsbD_eq
  intro k hk
  simp only [BitVec.getLsbD_and, getLsbD_wordA12]
  interval_cases k <;> simp

theorem mask_wordXB (op x : Nibble) (nn : Byte) : wordXB op x nn &&& 0xF000#16 = wordXB op 0#4 0#8 := by
  apply BitVec.eq_of_getLsbD_eq
  intro k hk
  simp only [BitVec.getLsbD_and, getLsbD_wordXB]
  interval_cases k <;> simp

theorem mask_wordXS (op x : Nibble) (nn : Byte) : wordXB op x nn &&& 0xF0FF#16 = wordXB op 0#4 nn := by
  apply BitVec.eq_of_getLsbD_eq
  intro k hk
  simp only [BitVec.getLsbD_and, getLsbD_wordXB]
  interval_cases k <;> simp

theorem mask_wordXY (op x y n : Nibble) : wordOfNibbles op x y n &&& 0xF00F#16 = wordOfNibbles op 0#4 0#4 n := by
  apply BitVec.eq_of_getLsbD_eq
  intro k hk
  simp only [BitVec.getLsbD_and, getLsbD_wordOfNibbles]
  interval_cases k <;> simp

theorem mask_wordXYN (op x y n : Nibble) : wordOfNibbles op x y n &&& 0xF000#16 = wordOfNibbles op 0#4 0#4 0#4 := by
  apply BitVec.eq_of_getLsbD_eq
  intro k hk
  simp only [BitVec.getLsbD_and, getLsbD_wordOfNibbles]
  interval_cases k <;> simp

/-- The fixed bits of the row are those of the word. -/
def OpcodeRow.Statement (i : Instr) : Prop := encodeWord i &&& rowMask i = rowMatch i

theorem OpcodeRow.cls : OpcodeRow.Statement .cls := rfl
theorem OpcodeRow.ret : OpcodeRow.Statement .ret := rfl
theorem OpcodeRow.jp (nnn : Addr12) : OpcodeRow.Statement (.jp nnn) := mask_wordA12 _ _
theorem OpcodeRow.call (nnn : Addr12) : OpcodeRow.Statement (.call nnn) := mask_wordA12 _ _
theorem OpcodeRow.seImm (x : Nibble) (nn : Byte) : OpcodeRow.Statement (.seImm x nn) := mask_wordXB _ _ _
theorem OpcodeRow.sneImm (x : Nibble) (nn : Byte) : OpcodeRow.Statement (.sneImm x nn) := mask_wordXB _ _ _
theorem OpcodeRow.seReg (x y : Nibble) : OpcodeRow.Statement (.seReg x y) := mask_wordXY _ _ _ _
theorem OpcodeRow.ldImm (x : Nibble) (nn : Byte) : OpcodeRow.Statement (.ldImm x nn) := mask_wordXB _ _ _
theorem OpcodeRow.addImm (x : Nibble) (nn : Byte) : OpcodeRow.Statement (.addImm x nn) := mask_wordXB _ _ _
theorem OpcodeRow.ldReg (x y : Nibble) : OpcodeRow.Statement (.ldReg x y) := mask_wordXY _ _ _ _
theorem OpcodeRow.orReg (x y : Nibble) : OpcodeRow.Statement (.orReg x y) := mask_wordXY _ _ _ _
theorem OpcodeRow.andReg (x y : Nibble) : OpcodeRow.Statement (.andReg x y) := mask_wordXY _ _ _ _
theorem OpcodeRow.xorReg (x y : Nibble) : OpcodeRow.Statement (.xorReg x y) := mask_wordXY _ _ _ _
theorem OpcodeRow.addReg (x y : Nibble) : OpcodeRow.Statement (.addReg x y) := mask_wordXY _ _ _ _
theorem OpcodeRow.subReg (x y : Nibble) : OpcodeRow.Statement (.subReg x y) := mask_wordXY _ _ _ _
theorem OpcodeRow.shr (x y : Nibble) : OpcodeRow.Statement (.shr x y) := mask_wordXY _ _ _ _
theorem OpcodeRow.subnReg (x y : Nibble) : OpcodeRow.Statement (.subnReg x y) := mask_wordXY _ _ _ _
theorem OpcodeRow.shl (x y : Nibble) : OpcodeRow.Statement (.shl x y) := mask_wordXY _ _ _ _
theorem OpcodeRow.sneReg (x y : Nibble) : OpcodeRow.Statement (.sneReg x y) := mask_wordXY _ _ _ _
theorem OpcodeRow.ldI (nnn : Addr12) : OpcodeRow.Statement (.ldI nnn) := mask_wordA12 _ _
theorem OpcodeRow.jpV0 (nnn : Addr12) : OpcodeRow.Statement (.jpV0 nnn) := mask_wordA12 _ _
theorem OpcodeRow.rnd (x : Nibble) (nn : Byte) : OpcodeRow.Statement (.rnd x nn) := mask_wordXB _ _ _
theorem OpcodeRow.drw (x y n : Nibble) : OpcodeRow.Statement (.drw x y n) := mask_wordXYN _ _ _ _
theorem OpcodeRow.skp (x : Nibble) : OpcodeRow.Statement (.skp x) := mask_wordXS _ _ _
theorem OpcodeRow.sknp (x : Nibble) : OpcodeRow.Statement (.sknp x) := mask_wordXS _ _ _
theorem OpcodeRow.ldVxDt (x : Nibble) : OpcodeRow.Statement (.ldVxDt x) := mask_wordXS _ _ _
theorem OpcodeRow.ldVxK (x : Nibble) : OpcodeRow.Statement (.ldVxK x) := mask_wordXS _ _ _
theorem OpcodeRow.ldDtVx (x : Nibble) : OpcodeRow.Statement (.ldDtVx x) := mask_wordXS _ _ _
theorem OpcodeRow.ldStVx (x : Nibble) : OpcodeRow.Statement (.ldStVx x) := mask_wordXS _ _ _
theorem OpcodeRow.addI (x : Nibble) : OpcodeRow.Statement (.addI x) := mask_wordXS _ _ _
theorem OpcodeRow.ldF (x : Nibble) : OpcodeRow.Statement (.ldF x) := mask_wordXS _ _ _
theorem OpcodeRow.ldB (x : Nibble) : OpcodeRow.Statement (.ldB x) := mask_wordXS _ _ _
theorem OpcodeRow.stRegs (x : Nibble) : OpcodeRow.Statement (.stRegs x) := mask_wordXS _ _ _
theorem OpcodeRow.ldRegs (x : Nibble) : OpcodeRow.Statement (.ldRegs x) := mask_wordXS _ _ _
theorem OpcodeRow.nop0 (nnn : Addr12) : OpcodeRow.Statement (.nop0 nnn) := mask_wordA12 _ _
theorem OpcodeRow.nop (w : Word) : OpcodeRow.Statement (.nop w) := BitVec.and_zero

end Sys2Proof.Laws
end

