-- ==== Sys2Proof/Laws/Decode.lean ====
section
/-! SUPPORT. The laws of the fields (spec/30_encoding.md R101, R102): what each field of a word built in each
format is, and a word's fields put back together. -/

namespace Sys2Proof

open Sys2Proof.Laws

variable (op x y n : Nibble) (nn : Byte) (nnn : Addr12) (w : Word)

@[simp] theorem fieldOp_wordOfNibbles : fieldOp (wordOfNibbles op x y n) = op := by
  apply BitVec.eq_of_getLsbD_eq
  intro k hk
  simp only [fieldOp, getLsbD_wordOfNibbles, BitVec.getLsbD_extractLsb']
  interval_cases k <;> simp

@[simp] theorem fieldX_wordOfNibbles : fieldX (wordOfNibbles op x y n) = x := by
  apply BitVec.eq_of_getLsbD_eq
  intro k hk
  simp only [fieldX, getLsbD_wordOfNibbles, BitVec.getLsbD_extractLsb']
  interval_cases k <;> simp

@[simp] theorem fieldY_wordOfNibbles : fieldY (wordOfNibbles op x y n) = y := by
  apply BitVec.eq_of_getLsbD_eq
  intro k hk
  simp only [fieldY, getLsbD_wordOfNibbles, BitVec.getLsbD_extractLsb']
  interval_cases k <;> simp

@[simp] theorem fieldN_wordOfNibbles : fieldN (wordOfNibbles op x y n) = n := by
  apply BitVec.eq_of_getLsbD_eq
  intro k hk
  simp only [fieldN, getLsbD_wordOfNibbles, BitVec.getLsbD_extractLsb']
  interval_cases k <;> simp

@[simp] theorem fieldOp_wordA12 : fieldOp (wordA12 op nnn) = op := by
  apply BitVec.eq_of_getLsbD_eq
  intro k hk
  simp only [fieldOp, getLsbD_wordA12, BitVec.getLsbD_extractLsb']
  interval_cases k <;> simp

@[simp] theorem fieldNnn_wordA12 : fieldNnn (wordA12 op nnn) = nnn := by
  apply BitVec.eq_of_getLsbD_eq
  intro k hk
  simp only [fieldNnn, getLsbD_wordA12, BitVec.getLsbD_extractLsb']
  interval_cases k <;> simp

@[simp] theorem fieldOp_wordXB : fieldOp (wordXB op x nn) = op := by
  apply BitVec.eq_of_getLsbD_eq
  intro k hk
  simp only [fieldOp, getLsbD_wordXB, BitVec.getLsbD_extractLsb']
  interval_cases k <;> simp

@[simp] theorem fieldX_wordXB : fieldX (wordXB op x nn) = x := by
  apply BitVec.eq_of_getLsbD_eq
  intro k hk
  simp only [fieldX, getLsbD_wordXB, BitVec.getLsbD_extractLsb']
  interval_cases k <;> simp

@[simp] theorem fieldNn_wordXB : fieldNn (wordXB op x nn) = nn := by
  apply BitVec.eq_of_getLsbD_eq
  intro k hk
  simp only [fieldNn, getLsbD_wordXB, BitVec.getLsbD_extractLsb']
  interval_cases k <;> simp

theorem wordOfNibbles_fields : wordOfNibbles (fieldOp w) (fieldX w) (fieldY w) (fieldN w) = w := by
  apply BitVec.eq_of_getLsbD_eq
  intro k hk
  simp only [fieldOp, fieldX, fieldY, fieldN, getLsbD_wordOfNibbles, BitVec.getLsbD_extractLsb']
  interval_cases k <;> simp

theorem wordA12_fields : wordA12 (fieldOp w) (fieldNnn w) = w := by
  apply BitVec.eq_of_getLsbD_eq
  intro k hk
  simp only [fieldOp, fieldNnn, getLsbD_wordA12, BitVec.getLsbD_extractLsb']
  interval_cases k <;> simp

theorem wordXB_fields : wordXB (fieldOp w) (fieldX w) (fieldNn w) = w := by
  apply BitVec.eq_of_getLsbD_eq
  intro k hk
  simp only [fieldOp, fieldX, fieldNn, getLsbD_wordXB, BitVec.getLsbD_extractLsb']
  interval_cases k <;> simp

end Sys2Proof
end

