-- ==== Sys2Proof/Laws/Exec.lean ====
section
/-! SUPPORT. The equation of each instruction, case by case where it has cases: what `exec` answers, in the
terms of the shared operations. -/

namespace Sys2Proof.Machine

variable (s : State)

theorem exec_cls : exec .cls s = .next { s with disp := Display.clear, clearRequested := true } := rfl

theorem exec_drw_inRange (x y n : Nibble) (h : s.i.toNat + n.toNat ≤ 0x1000 ∨ n = 0#4) :
    exec (.drw x y n) s = .next (s.drawSprite x y n) := by
  have hr : rangeFault s.i.toNat n.toNat = none := by
    rcases h with h | rfl
    · exact rangeFault_none h
    · rw [rangeFault_eq]; simp
  simp [exec, execDrw, State.checked, hr]

theorem exec_drw_outOfRange (x y n : Nibble) (hn : n ≠ 0#4) (h : 0x1000 < s.i.toNat + n.toNat) :
    exec (.drw x y n) s =
      .next (s.raiseInstr .memOutOfRange (some (max s.i.toNat 0x1000))) := by
  have hp : 0 < n.toNat := Nat.pos_of_ne_zero fun e => hn (BitVec.eq_of_toNat_eq e)
  simp [exec, execDrw, State.checked, rangeFault_some hp h]

theorem exec_ret_pop (h : 0 < s.sp.val) :
    exec .ret s = .next { s with
      pc := s.stack[s.sp.val - 1]'(by omega)
      sp := ⟨s.sp.val - 1, by omega⟩ } := by
  simp only [exec, execRet, State.pop?_some s h, State.jumpTo]

theorem exec_ret_empty (h : s.sp.val = 0) :
    exec .ret s = .next (s.raiseInstr .stackUnderflow none) := by
  simp only [exec, execRet, State.pop?_none s h]

theorem exec_jp (nnn : Addr12) : exec (.jp nnn) s = .next (s.jumpTo (zextAddr nnn)) := rfl

theorem exec_call_push (nnn : Addr12) (h : s.sp.val < 16) :
    exec (.call nnn) s = .next { s with
      pc := zextAddr nnn
      stack := s.stack.set s.sp.val s.pc h
      sp := ⟨s.sp.val + 1, by omega⟩ } := by
  simp only [exec, execCall, State.push?_some s s.pc h, State.jumpTo]

theorem exec_call_full (nnn : Addr12) (h : s.sp.val = 16) :
    exec (.call nnn) s = .next (s.raiseInstr .stackOverflow none) := by
  simp only [exec, execCall, State.push?_none s s.pc h]

theorem exec_seImm (x : Nibble) (nn : Byte) :
    exec (.seImm x nn) s = .next (s.skipIf (s.reg x == nn)) := rfl

theorem exec_sneImm (x : Nibble) (nn : Byte) :
    exec (.sneImm x nn) s = .next (s.skipIf (s.reg x != nn)) := rfl

theorem exec_seReg (x y : Nibble) :
    exec (.seReg x y) s = .next (s.skipIf (s.reg x == s.reg y)) := rfl

theorem exec_sneReg (x y : Nibble) :
    exec (.sneReg x y) s = .next (s.skipIf (s.reg x != s.reg y)) := rfl

theorem exec_jpV0 (nnn : Addr12) :
    exec (.jpV0 nnn) s = .next (s.jumpTo (zextAddr nnn + zextByte (s.reg 0#4))) := rfl

theorem exec_ldImm (x : Nibble) (nn : Byte) : exec (.ldImm x nn) s = .next (s.setReg x nn) := rfl

theorem exec_addImm (x : Nibble) (nn : Byte) :
    exec (.addImm x nn) s = .next (s.setReg x (s.reg x + nn)) := rfl

theorem exec_ldReg (x y : Nibble) : exec (.ldReg x y) s = .next (s.setReg x (s.reg y)) := rfl

theorem exec_orReg (x y : Nibble) :
    exec (.orReg x y) s = .next (s.setReg x (s.reg x ||| s.reg y)) := rfl

theorem exec_andReg (x y : Nibble) :
    exec (.andReg x y) s = .next (s.setReg x (s.reg x &&& s.reg y)) := rfl

theorem exec_xorReg (x y : Nibble) :
    exec (.xorReg x y) s = .next (s.setReg x (s.reg x ^^^ s.reg y)) := rfl

theorem exec_addReg (x y : Nibble) :
    exec (.addReg x y) s = .next (s.setResultAndFlag x (s.reg x + s.reg y)
      (flagByte (carryOf (s.reg x) (s.reg y)))) := rfl

theorem exec_subReg (x y : Nibble) :
    exec (.subReg x y) s = .next (s.setResultAndFlag x (s.reg x - s.reg y)
      (flagByte (greaterOf (s.reg x) (s.reg y)))) := rfl

theorem exec_shr (x y : Nibble) :
    exec (.shr x y) s =
      .next (s.setResultAndFlag x (s.reg x >>> 1) (shiftedOutRight (s.reg x))) := rfl

theorem exec_subnReg (x y : Nibble) :
    exec (.subnReg x y) s = .next (s.setResultAndFlag x (s.reg y - s.reg x)
      (flagByte (greaterOf (s.reg y) (s.reg x)))) := rfl

theorem exec_shl (x y : Nibble) :
    exec (.shl x y) s = .next (s.setResultAndFlag x (s.reg x <<< 1)
      (shiftedOutLeft s.config.shlVfRaw (s.reg x))) := rfl

theorem exec_rnd (x : Nibble) (nn : Byte) :
    exec (.rnd x nn) s = .next (s.setReg x (s.call.rand &&& nn)) := rfl

theorem exec_ldI (nnn : Addr12) : exec (.ldI nnn) s = .next (s.setI (zextAddr nnn)) := rfl

theorem exec_addI (x : Nibble) :
    exec (.addI x) s = .next (s.setI (s.i + zextByte (s.reg x))) := rfl

theorem exec_ldF (x : Nibble) :
    exec (.ldF x) s = .next (s.setI (zextByte (s.reg x) * 5#16)) := rfl

theorem exec_ldB_inRange (x : Nibble) (h : s.i.toNat + 3 ≤ 0x1000) :
    exec (.ldB x) s = .next (s.storeBytes s.i.toNat (decimalDigits (s.reg x))) := by
  simp [exec, execLdB, State.checked, rangeFault_none h]

theorem exec_ldB_outOfRange (x : Nibble) (h : 0x1000 < s.i.toNat + 3) :
    exec (.ldB x) s = .next (s.raiseInstr .memOutOfRange (some (max s.i.toNat 0x1000))) := by
  simp [exec, execLdB, State.checked, rangeFault_some (Nat.zero_lt_succ 2) h]

theorem exec_stRegs_inRange (x : Nibble) (h : s.i.toNat + (x.toNat + 1) ≤ 0x1000) :
    exec (.stRegs x) s =
      .next (s.storeBytes s.i.toNat (s.regsFrom 0 (x.toNat + 1))) := by
  simp [exec, execStRegs, State.checked, rangeFault_none h]

theorem exec_stRegs_outOfRange (x : Nibble) (h : 0x1000 < s.i.toNat + (x.toNat + 1)) :
    exec (.stRegs x) s = .next (s.raiseInstr .memOutOfRange (some (max s.i.toNat 0x1000))) := by
  simp [exec, execStRegs, State.checked, rangeFault_some (Nat.zero_lt_succ _) h]

theorem exec_ldRegs_inRange (x : Nibble) (h : s.i.toNat + (x.toNat + 1) ≤ 0x1000) :
    exec (.ldRegs x) s = .next (s.loadRegs s.i.toNat (x.toNat + 1)) := by
  simp [exec, execLdRegs, State.checked, rangeFault_none h]

theorem exec_ldRegs_outOfRange (x : Nibble) (h : 0x1000 < s.i.toNat + (x.toNat + 1)) :
    exec (.ldRegs x) s = .next (s.raiseInstr .memOutOfRange (some (max s.i.toNat 0x1000))) := by
  simp [exec, execLdRegs, State.checked, rangeFault_some (Nat.zero_lt_succ _) h]

theorem exec_skp (x : Nibble) : exec (.skp x) s = .next (s.skipIf s.call.held) := rfl

theorem exec_sknp (x : Nibble) : exec (.sknp x) s = .next (s.skipIf (!s.call.held)) := rfl

theorem exec_ldVxDt (x : Nibble) : exec (.ldVxDt x) s = .next (s.setReg x s.dt) := rfl

theorem exec_ldVxK (x : Nibble) :
    exec (.ldVxK x) s = .next { s with status := .waitingKey x s.call.now } := rfl

theorem exec_ldDtVx (x : Nibble) : exec (.ldDtVx x) s = .next { s with dt := s.reg x } := rfl

theorem exec_ldStVx (x : Nibble) : exec (.ldStVx x) s = .next { s with st := s.reg x } := rfl

theorem exec_nop0 (nnn : Addr12) : exec (.nop0 nnn) s = .next s := rfl

theorem exec_nop (w : Word) : exec (.nop w) s = .next s := rfl

end Sys2Proof.Machine
end

