-- ==== Sys2Proof/Tests/Slice0.lean ====
section
/-! SUPPORT. Tests, with expected results from spec/95_test_vectors.md and the rules' own examples, never from the
model; and for each statement of Certificates/Slice0/Obligations.lean that has hypotheses a witness that meets
them all together. -/

namespace Sys2Proof.Tests

open Sys2Proof Sys2Proof.Machine

/-! ## Well-formed instructions (WellFormed.lean): an ill-formed term for each check -/

theorem test_wf_refuses_nop0_of_cls : (Instr.nop0 0x0E0#12).wf = false := by decide
theorem test_wf_refuses_nop0_of_ret : (Instr.nop0 0x0EE#12).wf = false := by decide
theorem test_wf_refuses_nop_of_family_0 : (Instr.nop 0x0123#16).wf = false := by decide
theorem test_wf_refuses_nop_of_family_1 : (Instr.nop 0x1234#16).wf = false := by decide
theorem test_wf_refuses_nop_of_family_5 : (Instr.nop 0x5120#16).wf = false := by decide
theorem test_wf_refuses_nop_of_family_8 : (Instr.nop 0x812E#16).wf = false := by decide
theorem test_wf_refuses_nop_of_family_9 : (Instr.nop 0x9120#16).wf = false := by decide
theorem test_wf_refuses_nop_of_family_E : (Instr.nop 0xE19E#16).wf = false := by decide
theorem test_wf_refuses_nop_of_family_F : (Instr.nop 0xF165#16).wf = false := by decide

/-! ## Decoding (30_encoding R102, R104): each word written out from its pattern, four bits to a digit -/

theorem test_decode_cls : decodeWord 0b0000000011100000#16 = .cls := by decide
theorem test_decode_ret : decodeWord 0b0000000011101110#16 = .ret := by decide
theorem test_decode_jp : decodeWord 0b0001101010111100#16 = .jp 0xABC#12 := by decide
theorem test_decode_call : decodeWord 0b0010101010111100#16 = .call 0xABC#12 := by decide
theorem test_decode_seImm : decodeWord 0b0011001101000010#16 = .seImm 0x3#4 0x42#8 := by decide
theorem test_decode_sneImm : decodeWord 0b0100001101000010#16 = .sneImm 0x3#4 0x42#8 := by decide
theorem test_decode_seReg : decodeWord 0b0101000100100000#16 = .seReg 0x1#4 0x2#4 := by decide
theorem test_decode_ldImm : decodeWord 0b0110101011111010#16 = .ldImm 0xA#4 0xFA#8 := by decide
theorem test_decode_addImm : decodeWord 0b0111101000001010#16 = .addImm 0xA#4 0x0A#8 := by decide
theorem test_decode_ldReg : decodeWord 0b1000000100100000#16 = .ldReg 0x1#4 0x2#4 := by decide
theorem test_decode_orReg : decodeWord 0b1000000100100001#16 = .orReg 0x1#4 0x2#4 := by decide
theorem test_decode_andReg : decodeWord 0b1000000100100010#16 = .andReg 0x1#4 0x2#4 := by decide
theorem test_decode_xorReg : decodeWord 0b1000000100100011#16 = .xorReg 0x1#4 0x2#4 := by decide
theorem test_decode_addReg : decodeWord 0b1000101010110100#16 = .addReg 0xA#4 0xB#4 := by decide
theorem test_decode_subReg : decodeWord 0b1000000100100101#16 = .subReg 0x1#4 0x2#4 := by decide
theorem test_decode_shr : decodeWord 0b1000000100100110#16 = .shr 0x1#4 0x2#4 := by decide
theorem test_decode_subnReg : decodeWord 0b1000000100100111#16 = .subnReg 0x1#4 0x2#4 := by decide
theorem test_decode_shl : decodeWord 0b1000000100101110#16 = .shl 0x1#4 0x2#4 := by decide
theorem test_decode_sneReg : decodeWord 0b1001000100100000#16 = .sneReg 0x1#4 0x2#4 := by decide
theorem test_decode_ldI : decodeWord 0b1010001100000000#16 = .ldI 0x300#12 := by decide
theorem test_decode_jpV0 : decodeWord 0b1011000100100011#16 = .jpV0 0x123#12 := by decide
theorem test_decode_rnd : decodeWord 0b1100001100001111#16 = .rnd 0x3#4 0x0F#8 := by decide
theorem test_decode_drw : decodeWord 0b1101000100100101#16 = .drw 0x1#4 0x2#4 0x5#4 := by decide
theorem test_decode_skp : decodeWord 0b1110010110011110#16 = .skp 0x5#4 := by decide
theorem test_decode_sknp : decodeWord 0b1110010110100001#16 = .sknp 0x5#4 := by decide
theorem test_decode_ldVxDt : decodeWord 0b1111000100000111#16 = .ldVxDt 0x1#4 := by decide
theorem test_decode_ldVxK : decodeWord 0b1111001100001010#16 = .ldVxK 0x3#4 := by decide
theorem test_decode_ldDtVx : decodeWord 0b1111001000010101#16 = .ldDtVx 0x2#4 := by decide
theorem test_decode_ldStVx : decodeWord 0b1111001000011000#16 = .ldStVx 0x2#4 := by decide
theorem test_decode_addI : decodeWord 0b1111001000011110#16 = .addI 0x2#4 := by decide
theorem test_decode_ldF : decodeWord 0b1111010000101001#16 = .ldF 0x4#4 := by decide
theorem test_decode_ldB : decodeWord 0b1111010100110011#16 = .ldB 0x5#4 := by decide
theorem test_decode_stRegs : decodeWord 0b1111001001010101#16 = .stRegs 0x2#4 := by decide
theorem test_decode_ldRegs : decodeWord 0b1111001001100101#16 = .ldRegs 0x2#4 := by decide
theorem test_decode_nop0 : decodeWord 0b0000000111100000#16 = .nop0 0x1E0#12 := by decide
theorem test_decode_nop : decodeWord 0b0101000000000001#16 = .nop 0x5001#16 := by decide
theorem test_decode_bytes_big_endian :
    decode [0x6A#8, 0xFA#8, 0x12#8] = .ok (.ldImm 0xA#4 0xFA#8, [0x12#8]) := by decide
theorem test_decode_one_byte_is_truncated : decode [0x6A#8] = .error .truncated := by decide
theorem test_decodeTableWord_reads_the_row : decodeTableWord 16 0xF265 = some (.ldRegs 0x2#4) := by
  decide
/-- The words of vector L2.1 that are no instruction, one of each family. -/
theorem test_decode_unrecognized :
    [0x00E1#16, 0x01E0#16].map decodeWord = [.nop0 0x0E1#12, .nop0 0x1E0#12] ∧
    [0x5121#16, 0x8128#16, 0x812F#16, 0x9121#16, 0xE19F#16, 0xF100#16].all
      (fun w => decodeWord w = .nop w) = true := by decide

/-! ## Small states -/

/-- The constructed machine with some registers set. -/
def withRegs (rs : List (Nibble × Byte)) : State :=
  rs.foldl (fun s p => s.setReg p.1 p.2) State.reset

/-- That machine with I set too. -/
def withIndex (i : Word) (rs : List (Nibble × Byte)) : State := (withRegs rs).setI i

/-- One part of the state after an instruction. -/
def after {α : Type} (i : Instr) (s : State) (f : State → α) : Option α :=
  (nextState? (exec i s)).map f

/-- Vx and VF after an instruction. -/
def regAndFlag (x : Nibble) (t : State) : Byte × Byte := (t.reg x, t.reg 0xF#4)

/-- Three bytes of memory. -/
def threeBytes (a : Nat) (t : State) : List Byte := [t.byteAt a, t.byteAt (a + 1), t.byteAt (a + 2)]

/-- The fault of a state, as its code and detail. -/
def faultOf (t : State) : Option (FaultCode × Option Nat) :=
  match t.status with
  | .faulted r => some (r.code, r.detail)
  | _ => none

/-! ## One instruction (95_test_vectors L2.2 to L2.6) -/

theorem test_addImm_sets_no_flag :
    after (.addImm 0x1#4 0x01#8) (withRegs [(0x1#4, 0xFF#8)]) (regAndFlag 0x1#4) =
      some (0x00#8, 0x00#8) := by decide
theorem test_addImm_on_vf :
    after (.addImm 0xF#4 0xFF#8) (withRegs [(0xF#4, 0x01#8)]) (·.reg 0xF#4) = some 0x00#8 := by decide
theorem test_ldReg_copies_vy :
    after (.ldReg 0x1#4 0x2#4) (withRegs [(0x2#4, 0x33#8), (0xF#4, 1#8)]) (regAndFlag 0x1#4) =
      some (0x33#8, 1#8) := by decide
theorem test_orReg_leaves_vf :
    after (.orReg 0x1#4 0x2#4) (withRegs [(0x1#4, 0x0F#8), (0x2#4, 0xF0#8), (0xF#4, 1#8)])
      (regAndFlag 0x1#4) = some (0xFF#8, 1#8) := by decide
theorem test_andReg :
    after (.andReg 0x1#4 0x2#4) (withRegs [(0x1#4, 0x3C#8), (0x2#4, 0x0F#8)]) (·.reg 0x1#4) =
      some 0x0C#8 := by decide
theorem test_xorReg_of_itself :
    after (.xorReg 0x1#4 0x1#4) (withRegs [(0x1#4, 0x5A#8)]) (·.reg 0x1#4) = some 0x00#8 := by decide
theorem test_addReg_carry :
    after (.addReg 0xA#4 0xB#4) (withRegs [(0xA#4, 0xFA#8), (0xB#4, 0x0A#8)]) (regAndFlag 0xA#4) =
      some (0x04#8, 1#8) := by decide
theorem test_addReg_into_vf :
    after (.addReg 0xF#4 0x1#4) (withRegs [(0xF#4, 0xFF#8), (0x1#4, 0x01#8)]) (·.reg 0xF#4) =
      some 1#8 := by decide
theorem test_subReg_borrow :
    after (.subReg 0x1#4 0x2#4) (withRegs [(0x1#4, 5#8), (0x2#4, 10#8)]) (regAndFlag 0x1#4) =
      some (0xFB#8, 0#8) := by decide
theorem test_subReg_equal_clears_the_flag :
    after (.subReg 0x1#4 0x2#4) (withRegs [(0x1#4, 7#8), (0x2#4, 7#8), (0xF#4, 1#8)])
      (regAndFlag 0x1#4) = some (0x00#8, 0#8) := by decide
theorem test_shr_shifts_out_bit_0 :
    after (.shr 0x1#4 0x0#4) (withRegs [(0x1#4, 0xFF#8)]) (regAndFlag 0x1#4) =
      some (0x7F#8, 1#8) := by decide
theorem test_shr_of_vf :
    after (.shr 0xF#4 0x0#4) (withRegs [(0xF#4, 0x02#8)]) (·.reg 0xF#4) = some 0#8 := by decide
theorem test_subnReg_swaps_the_operands :
    after (.subnReg 0x1#4 0x2#4) (withRegs [(0x1#4, 5#8), (0x2#4, 10#8)]) (regAndFlag 0x1#4) =
      some (0x05#8, 1#8) := by decide
theorem test_shl_normalized :
    after (.shl 0x1#4 0x0#4) (withRegs [(0x1#4, 0x81#8)]) (regAndFlag 0x1#4) =
      some (0x02#8, 1#8) := by decide
theorem test_shl_raw :
    after (.shl 0x1#4 0x0#4)
      { withRegs [(0x1#4, 0x81#8)] with config := { Config.default with shlVfRaw := true } }
      (regAndFlag 0x1#4) = some (0x02#8, 0x80#8) := by decide
theorem test_rnd_masks_the_draw :
    after (.rnd 0x3#4 0x0F#8)
      { State.reset with call := { State.reset.call with rand := 0xA7#8 } } (·.reg 0x3#4) =
      some 0x07#8 := by decide
theorem test_jp : after (.jp 0x234#12) State.reset (·.pc) = some 0x234#16 := by decide
theorem test_jpV0_passes_0xFFF :
    after (.jpV0 0xFFF#12) (withRegs [(0x0#4, 0xFF#8)]) (·.pc) = some 0x10FE#16 := by decide
theorem test_jpV0_reads_v0_not_vx :
    after (.jpV0 0x123#12) (withRegs [(0x1#4, 5#8)]) (·.pc) = some 0x123#16 := by decide
theorem test_seImm_skips :
    after (.seImm 0x3#4 0x42#8) (withRegs [(0x3#4, 0x42#8)]) (·.pc) = some 0x202#16 := by decide
theorem test_sneImm_does_not_skip :
    after (.sneImm 0x3#4 0x42#8) (withRegs [(0x3#4, 0x42#8)]) (·.pc) = some 0x200#16 := by decide
theorem test_seReg_does_not_skip :
    after (.seReg 0x1#4 0x2#4) (withRegs [(0x1#4, 7#8), (0x2#4, 8#8)]) (·.pc) = some 0x200#16 := by
  decide
theorem test_sneReg_skips :
    after (.sneReg 0x1#4 0x2#4) (withRegs [(0x1#4, 7#8), (0x2#4, 8#8)]) (·.pc) = some 0x202#16 := by
  decide
theorem test_call_pushes_pc :
    after (.call 0x300#12) State.reset (fun t => (t.stack[0], t.sp.val, t.pc)) =
      some (0x200#16, 1, 0x300#16) := by decide
theorem test_call_overflows_at_16 :
    after (.call 0x300#12) { State.reset with sp := 16 } (fun t => (faultOf t, t.sp.val)) =
      some (some (.stackOverflow, none), 16) := by decide
theorem test_ret_pops :
    after .ret { State.reset with sp := 2, stack := State.reset.stack.set 1 0x456#16 }
      (fun t => (t.pc, t.sp.val, t.stack[1])) = some (0x456#16, 1, 0x456#16) := by decide
theorem test_ret_underflows_at_0 :
    after .ret State.reset faultOf = some (some (.stackUnderflow, none)) := by decide
theorem test_ldI : after (.ldI 0x300#12) State.reset (·.i) = some 0x300#16 := by decide
theorem test_addI_is_not_masked :
    after (.addI 0x2#4) (withIndex 0x0FFF#16 [(0x2#4, 2#8)]) (fun t => (t.i, t.reg 0xF#4)) =
      some (0x1001#16, 0#8) := by decide
theorem test_addI_wraps :
    after (.addI 0x0#4) (withIndex 0xFFFF#16 [(0x0#4, 1#8)]) (·.i) = some 0#16 := by decide
theorem test_ldF_is_not_masked :
    after (.ldF 0x0#4) (withRegs [(0x0#4, 0xFF#8)]) (·.i) = some 0x4FB#16 := by decide
theorem test_ldB_at_the_top :
    after (.ldB 0x0#4) (withIndex 0xFFD#16 [(0x0#4, 123#8)]) (threeBytes 0xFFD) =
      some [1#8, 2#8, 3#8] := by decide
theorem test_ldB_faults_past_the_top :
    after (.ldB 0x0#4) (withIndex 0xFFE#16 [(0x0#4, 123#8)])
      (fun t => (faultOf t, t.byteAt 0xFFE)) =
      some (some (.memOutOfRange, some 0x1000), 0#8) := by decide
theorem test_stRegs_is_inclusive :
    after (.stRegs 0x2#4) (withIndex 0x400#16 [(0x0#4, 1#8), (0x1#4, 2#8), (0x2#4, 3#8), (0x3#4, 4#8)])
      (fun t => (threeBytes 0x400 t, t.byteAt 0x403, t.i)) =
      some ([1#8, 2#8, 3#8], 0#8, 0x400#16) := by decide
theorem test_ldRegs_reads_the_font :
    after (.ldRegs 0x4#4) State.reset
      (fun t => [t.reg 0x0#4, t.reg 0x1#4, t.reg 0x4#4, t.reg 0x5#4]) =
      some [0xF0#8, 0x90#8, 0xF0#8, 0#8] := by decide
theorem test_ldRegs_faults_at_0x1000 :
    after (.ldRegs 0x0#4) (withIndex 0x1000#16 []) faultOf =
      some (some (.memOutOfRange, some 0x1000)) := by decide
theorem test_cls :
    after .cls { State.reset with disp := State.reset.disp.set 31 63 true, displayDirty := false }
      (fun t => (t.disp.get 31 63, t.clearRequested, t.displayDirty)) =
      some (false, true, false) := by decide +kernel
/-- The row of vector L2.2 with a byte 0xC0 over one set pixel. -/
theorem test_drw_xors_and_collides :
    after (.drw 0x0#4 0x1#4 0x1#4)
      { (withIndex 0x300#16 []).setByte 0x300 0xC0#8 with disp := State.reset.disp.set 0 0 true }
      (fun t => (t.disp.get 0 0, t.disp.get 0 1, t.disp.get 0 2, t.reg 0xF#4)) =
      some (false, true, false, 1#8) := by decide +kernel
/-- The row of vector L2.2 that clips at the right edge. -/
theorem test_drw_clips :
    after (.drw 0x0#4 0x1#4 0x1#4) ((withIndex 0x300#16 [(0x0#4, 63#8)]).setByte 0x300 0xFF#8)
      (fun t => (t.disp.get 0 63, t.disp.get 0 0, t.disp.get 1 0, t.reg 0xF#4)) =
      some (true, false, false, 0#8) := by decide +kernel
theorem test_skp_held :
    after (.skp 0x5#4) { State.reset with call := { State.reset.call with held := true } } (·.pc) =
      some 0x202#16 := by decide
theorem test_sknp_held :
    after (.sknp 0x5#4) { State.reset with call := { State.reset.call with held := true } } (·.pc) =
      some 0x200#16 := by decide
theorem test_ldVxDt :
    after (.ldVxDt 0x1#4) { State.reset with dt := 0x3C#8 } (·.reg 0x1#4) = some 0x3C#8 := by decide
theorem test_ldDtVx :
    after (.ldDtVx 0x2#4) (withRegs [(0x2#4, 0x3C#8)]) (fun t => (t.dt, t.st)) =
      some (0x3C#8, 0#8) := by decide
theorem test_ldStVx_does_not_beep_yet :
    after (.ldStVx 0x2#4) (withRegs [(0x2#4, 5#8)]) (fun t => (t.st, t.beepActive)) =
      some (5#8, false) := by decide

/-! ## Calls (L1.6, L2.1, L2.6, L2.7) -/

/-- A call at a time, with a drawn byte 0 and no key held. -/
def callAt (now : Nat) : HostCall := HostCall.mk now 0#8 false

/-- A machine with a word at PC and one call to come. -/
def called (s : State) (w now : Nat) : State :=
  { s.withFetchWord 16 w with host := [.cycle (callAt now)] }

/-- One part of the state after a step. -/
def stepped {α : Type} (s : State) (f : State → α) : Option α := (nextState? (step s)).map f

theorem test_withFetchWord_runs_the_word :
    stepped (State.reset.withFetchWord 16 0x6AFA) (fun t => (t.reg 0xA#4, t.pc)) =
      some (0xFA#8, 0x202#16) := by decide
theorem test_gate_closed_before_its_period :
    stepped (called State.reset 0x6AFA 1999999) (fun t => (t.reg 0xA#4, t.pc)) =
      some (0#8, 0x200#16) := by decide
theorem test_gate_opens_at_its_period :
    stepped (called State.reset 0x6AFA 2000000) (fun t => (t.pc, t.lastInstructionTick)) =
      some (0x202#16, 2000000) := by decide
/-- The last row of L2.7: the timer gate comes first. -/
theorem test_timer_gate_comes_first :
    stepped (called { State.reset with dt := 5#8 } 0xF107 16666666) (fun t => (t.dt, t.reg 0x1#4)) =
      some (4#8, 4#8) := by decide
theorem test_one_decrement_only :
    stepped (called { State.reset with st := 2#8 } 0x0000 1000000000) (fun t => (t.st, t.beepActive)) =
      some (1#8, true) := by decide
theorem test_time_regression_faults :
    stepped (called { State.reset with lastTimerTick := 10, lastInstructionTick := 10 } 0x0000 9)
      (fun t => (faultOf t, t.pc)) =
      some (some (.hostTimeRegression, some 9), 0x200#16) := by decide
theorem test_fetch_at_the_last_byte_faults :
    stepped (called { State.reset with pc := 0xFFF#16 } 0x0000 2000000)
      (fun t => (faultOf t, t.pc)) =
      some (some (.fetchOutOfRange, none), 0xFFF#16) := by decide
theorem test_fetch_at_an_odd_address :
    stepped (called { State.reset with pc := 0x201#16 } 0x6005 2000000)
      (fun t => (t.reg 0x0#4, t.pc)) = some (5#8, 0x203#16) := by decide
theorem test_nop_moves_pc_only :
    stepped (called State.reset 0x5001 2000000) (fun t => (t.v, t.pc)) =
      some (State.reset.v, 0x202#16) := by decide
theorem test_nop0_moves_pc_only :
    stepped (called State.reset 0x01E0 2000000) (fun t => (t.disp.get 0 0, t.clearRequested, t.pc)) =
      some (false, false, 0x202#16) := by decide
theorem test_key_wait_begins :
    stepped (called State.reset 0xF30A 5000000) (fun t => (t.status, t.pc, t.lastInstructionTick)) =
      some (.waitingKey 0x3#4 5000000, 0x202#16, 0) := by decide
theorem test_key_wait_ends :
    stepped { State.reset with status := .waitingKey 0x3#4 5000000, host := [.keyDown 0x7#4] }
      (fun t => (t.reg 0x3#4, t.status, t.lastInstructionTick)) =
      some (0x07#8, .running, 5000000) := by decide
theorem test_construct_at_the_limits :
    (construct { Config.default with ips := 0 } = .error .zeroRate) ∧
    (State.reset.byteAt 0x04F, State.reset.byteAt 0x050, State.reset.byteAt 0x200) =
      (0x80#8, 0#8, 0#8) := by
  refine ⟨rfl, by decide⟩

/-! ## Witnesses: the hypotheses of the statements can be met -/

/-- A word placed at PC, called at the end of its first period: the state most witnesses use. -/
def ready (w : Nat) : State := called State.reset w 2000000

/-- `ready` with I set. -/
def atIndex (i : Word) (w : Nat) : State := { ready w with i := i }

/-- `ready` with sixteen calls outstanding. -/
def stackFull (w : Nat) : State := { ready w with sp := 16 }

/-- The memory of `ready` has its canonical form, and so on: `ready` meets the invariant. -/
theorem witness_ready_Inv : (ready 0x6AFA).Inv where
  config_wf := by decide
  mem_wf := by decide
  pc_le := by decide
  stack_le := by decide
  one_output := by decide
  wait_time := fun x t h => by cases h
  record_fits := fun r h => by cases h

theorem witness_DecodeOfEncodeIsTheInstruction :
    Instr.wf .cls = true ∧ (Instr.drw 0x1#4 0x2#4 0xF#4).wf = true ∧
    (Instr.nop0 0xFFF#12).wf = true ∧ (Instr.nop 0x8FFF#16).wf = true := by decide

/-- Each line of R105, at a boundary of its range. -/
theorem witness_UnrecognizedWordsAreTheListedOnes :
    listedUnrecognized 0x00ED#16 ∧ listedUnrecognized 0x0FFF#16 ∧ listedUnrecognized 0x5001#16 ∧
    listedUnrecognized 0x8008#16 ∧ listedUnrecognized 0x8FFF#16 ∧ listedUnrecognized 0x900F#16 ∧
    listedUnrecognized 0xE09F#16 ∧ listedUnrecognized 0xFFFF#16 ∧ ¬ listedUnrecognized 0x00EE#16 := by
  refine ⟨?_, ?_, ?_, ?_, ?_, ?_, ?_, ?_, ?_⟩ <;> simp [listedUnrecognized]

/-- The clause x ≠ 0xF of the statements that write a result and a flag. -/
theorem witness_ResultAndFlagRegisters : (0xE#4 : Nibble) ≠ 0xF#4 ∧ (0x0#4 : Nibble) ≠ 0xF#4 := by
  decide

theorem witness_CallPushesTheReturnAddress :
    State.reset.sp.val = (0 : Fin 16).val ∧
    ({ State.reset with sp := 15 } : State).sp.val = (15 : Fin 16).val := by decide

theorem witness_ReturnPopsTheReturnAddress :
    ({ State.reset with sp := 1 } : State).sp.val = (0 : Fin 16).val + 1 ∧
    ({ State.reset with sp := 16 } : State).sp.val = (15 : Fin 16).val + 1 := by decide

theorem witness_StackFaultsDoNothingElse :
    ({ State.reset with sp := 16 } : State).sp.val = 16 ∧ State.reset.sp.val = 0 := by decide

theorem witness_CallThenReturnComesBack :
    ({ State.reset with sp := 15 } : State).sp.val < 16 := by decide

theorem witness_DecimalDigitsAreStored :
    (withIndex 0xFFD#16 []).mem.wf (withIndex 0xFFD#16 []).config = true ∧
    (withIndex 0xFFD#16 []).i.toNat + 2 ≤ 0xFFF := by decide

theorem witness_RegistersAreStored :
    (withIndex 0xFF0#16 []).mem.wf (withIndex 0xFF0#16 []).config = true ∧
    (withIndex 0xFF0#16 []).i.toNat + (0xF#4).toNat ≤ 0xFFF ∧
    (withIndex 0xFFF#16 []).i.toNat + (0x0#4).toNat ≤ 0xFFF := by decide

theorem witness_RegistersAreLoaded :
    (withIndex 0xFF0#16 []).i.toNat + (0xF#4).toNat ≤ 0xFFF := by decide

/-- The four forms, each at the first address out of range, and an address beyond memory. -/
theorem witness_RangeFaultsHaveNoEffect :
    (0 < (0x3#4).toNat ∧ 0xFFF < (withIndex 0xFFE#16 []).i.toNat + (0x3#4).toNat - 1) ∧
    (0xFFF < (withIndex 0xFFE#16 []).i.toNat + 3 - 1) ∧
    (0xFFF < (withIndex 0xFF1#16 []).i.toNat + ((0xF#4).toNat + 1) - 1) ∧
    (0xFFF < (withIndex 0x1000#16 []).i.toNat + ((0x0#4).toNat + 1) - 1) := by decide

theorem witness_SpriteFlipsPixelsAndCollides :
    (withIndex 0xFF1#16 []).i.toNat + (0xF#4).toNat ≤ 0x1000 ∧
    ((withIndex 0xFFFF#16 []).i.toNat + (0x0#4).toNat ≤ 0x1000 ∨ 0x0#4 = 0x0#4) := by decide

theorem witness_DrawingTwiceRestoresTheDisplay :
    (0x0#4 : Nibble) ≠ 0xF#4 ∧ (0x1#4 : Nibble) ≠ 0xF#4 ∧
    ((withIndex 0x300#16 []).i.toNat + (0x5#4).toNat ≤ 0x1000 ∨ 0x5#4 = 0x0#4) := by decide

/-- A waiting machine with one event to come. -/
def waiting (e : HostEvent) : State :=
  { State.reset with status := .waitingKey 0x3#4 5000000, host := [e] }

theorem witness_KeyWaitEnds :
    (waiting (.keyDown 0xF#4)).status = .waitingKey 0x3#4 5000000 ∧
    (waiting (.keyDown 0xF#4)).host = .keyDown 0xF#4 :: [] ∧
    (waiting .terminate).host = .terminate :: [] := ⟨rfl, rfl, rfl⟩

theorem witness_WaitIsInert :
    (waiting .terminate).status = .waitingKey 0x3#4 5000000 ∧
    (ready 0xF30A).status = .running ∧
    ∃ t, step (ready 0xF30A) = .next t ∧ t.status = .waitingKey 0x3#4 2000000 :=
  ⟨rfl, rfl, _, rfl, rfl⟩

theorem witness_UnrecognizedWordOnlyMovesPc :
    calledWith (ready 0x5001) (callAt 2000000) [] ∧ executesIn (ready 0x5001) (callAt 2000000) ∧
    (ready 0x5001).pc.toNat ≤ 0xFFE ∧
    (∃ w, decodeWord (ready 0x5001).fetchWord = .nop w) ∧
    ∃ nnn, decodeWord (ready 0x0FFF).fetchWord = .nop0 nnn := by
  refine ⟨⟨rfl, rfl⟩, ⟨⟨by decide, by decide⟩, by decide⟩, by decide, ⟨0x5001#16, by decide⟩,
    ⟨0xFFF#12, by decide⟩⟩

theorem witness_StepRunsTheDecodedInstruction :
    calledWith (ready 0x6AFA) (callAt 2000000) [] ∧ executesIn (ready 0x6AFA) (callAt 2000000) ∧
    (ready 0x6AFA).pc.toNat ≤ 0xFFE ∧
    decode [(ready 0x6AFA).byteAt (ready 0x6AFA).pc.toNat,
      (ready 0x6AFA).byteAt ((ready 0x6AFA).pc.toNat + 1)] = .ok (.ldImm 0xA#4 0xFA#8, []) := by
  refine ⟨⟨rfl, rfl⟩, ⟨⟨by decide, by decide⟩, by decide⟩, by decide, by decide⟩

/-- A machine past the last word of memory, called. -/
def pastTheEnd : State := called { State.reset with pc := 0xFFF#16 } 0x0000 2000000

theorem witness_FetchBeyondMemoryFaults :
    calledWith pastTheEnd (callAt 2000000) [] ∧ executesIn pastTheEnd (callAt 2000000) ∧
    0xFFE < pastTheEnd.pc.toNat := by
  refine ⟨⟨rfl, rfl⟩, ⟨⟨by decide, by decide⟩, by decide⟩, by decide⟩

/-- A machine with both markers at 10. -/
def started : State := { State.reset with lastTimerTick := 10, lastInstructionTick := 10 }

theorem witness_RegressingTimeFaults :
    calledWith (called started 0 9) (callAt 9) [] ∧
    (callAt 9).now < (called started 0 9).lastTimerTick ∧
    (callAt 9).now < (called started 0 9).lastInstructionTick := by
  refine ⟨⟨rfl, rfl⟩, by decide, by decide⟩

/-- A machine whose instruction gate stays closed while its timer gate fires, and one where neither does. -/
theorem witness_ClosedGateOnlyRunsTheTimers :
    (calledWith (called { State.reset with lastInstructionTick := 16000000 } 0 16666666)
        (callAt 16666666) [] ∧
      timeOk (called { State.reset with lastInstructionTick := 16000000 } 0 16666666)
        (callAt 16666666) ∧
      16666666 - 16000000 < 1000000000 / State.reset.config.ips) ∧
    (calledWith (called State.reset 0 1999999) (callAt 1999999) [] ∧
      timeOk (called State.reset 0 1999999) (callAt 1999999) ∧
      1999999 - State.reset.lastInstructionTick < 1000000000 / State.reset.config.ips) := by
  refine ⟨⟨⟨rfl, rfl⟩, ⟨by decide, by decide⟩, by decide⟩, ⟨rfl, rfl⟩, ⟨by decide, by decide⟩, by decide⟩

theorem witness_BeepIsSetAfterTheTimerGate :
    calledWith (ready 0x00E0) (callAt 2000000) [] ∧ timeOk (ready 0x00E0) (callAt 2000000) :=
  ⟨⟨rfl, rfl⟩, by decide, by decide⟩

/-- A call of each kind: 00E0, a Dxyn that draws, a Dxyn that faults. -/
theorem witness_OutputsAreOfThisCallOnly :
    (calledWith (ready 0x00E0) (callAt 2000000) [] ∧ timeOk (ready 0x00E0) (callAt 2000000) ∧
      executesIn (ready 0x00E0) (callAt 2000000) ∧ decodeWord (ready 0x00E0).fetchWord = .cls) ∧
    (calledWith (ready 0xD011) (callAt 2000000) [] ∧ timeOk (ready 0xD011) (callAt 2000000) ∧
      executesIn (ready 0xD011) (callAt 2000000) ∧
      decodeWord (ready 0xD011).fetchWord = .drw 0x0#4 0x1#4 0x1#4 ∧
      stepped (ready 0xD011) (fun t => (faultOf t, t.displayDirty)) = some (none, true)) ∧
    (calledWith (atIndex 0xFFE#16 0xD013) (callAt 2000000) [] ∧
      timeOk (atIndex 0xFFE#16 0xD013) (callAt 2000000) ∧
      stepped (atIndex 0xFFE#16 0xD013) (fun t => (faultOf t, t.displayDirty)) =
        some (some (.memOutOfRange, some 0x1000), false)) := by
  refine ⟨⟨⟨rfl, rfl⟩, ⟨by decide, by decide⟩, ⟨⟨by decide, by decide⟩, by decide⟩, by decide⟩,
    ⟨⟨rfl, rfl⟩, ⟨by decide, by decide⟩, ⟨⟨by decide, by decide⟩, by decide⟩, by decide,
      by decide +kernel⟩, ⟨rfl, rfl⟩, ⟨by decide, by decide⟩, by decide +kernel⟩

theorem witness_StepsOfInvariantStates :
    (ready 0x6AFA).Inv ∧ ∃ t, step (ready 0x6AFA) = .next t := ⟨witness_ready_Inv, _, rfl⟩

/-- A step of a Running core that leaves both markers and stays Running: the last clauses of the statement. -/
theorem witness_MarkersMoveByWholePeriods :
    (called State.reset 0x6AFA 1999999).Inv ∧ (called State.reset 0x6AFA 1999999).status = .running ∧
    (called State.reset 0x6AFA 1999999).config.ips ≤ 1000000000 ∧
    ∃ t, step (called State.reset 0x6AFA 1999999) = .next t ∧ t.status = .running ∧
      t.lastTimerTick = (called State.reset 0x6AFA 1999999).lastTimerTick ∧
      t.lastInstructionTick = (called State.reset 0x6AFA 1999999).lastInstructionTick :=
  ⟨{ config_wf := by decide, mem_wf := by decide, pc_le := by decide, stack_le := by decide,
     one_output := by decide, wait_time := fun x t h => (by cases h), record_fits := fun r h => (by cases h) },
   rfl, by decide, _, rfl, rfl, rfl, rfl⟩

/-- An instruction that reads no input, under any other call; and each that reads one, under a call with the other
inputs changed. -/
theorem witness_InstructionsReadAtMostOneHostInput :
    (∀ x nn, Instr.cls ≠ .rnd x nn) ∧ (∀ x, Instr.cls ≠ .skp x ∧ Instr.cls ≠ .sknp x) ∧
    (∀ x, Instr.cls ≠ .ldVxK x) ∧
    (HostCall.mk 7 0#8 true).rand = State.reset.call.rand ∧
    (HostCall.mk 7 0xA7#8 false).held = State.reset.call.held ∧
    (HostCall.mk 0 0xA7#8 true).now = State.reset.call.now := by
  refine ⟨?_, ?_, ?_, rfl, rfl, rfl⟩ <;> intros <;> simp

theorem witness_FetchIsBigEndian :
    State.reset.mem.wf State.reset.config = true ∧
    ({ State.reset with pc := 0xFFE#16 } : State).pc.toNat + 1 ≤ 0xFFF := by decide

/-- Two memories with the same contents, got by other writes. -/
theorem witness_CanonicalMemoryIsItsContents :
    Memory.wf Config.default (Memory.write Config.default [] 0x300 5#8) = true ∧
    Memory.wf Config.default (Memory.write Config.default
      (Memory.write Config.default [] 0x300 1#8) 0x300 5#8) = true ∧
    ∀ a, a < 0x1000 → Memory.read Config.default (Memory.write Config.default [] 0x300 5#8) a =
      Memory.read Config.default (Memory.write Config.default
        (Memory.write Config.default [] 0x300 1#8) 0x300 5#8) a := by
  refine ⟨by decide, by decide, fun a _ => rfl⟩

/-- Each fault code's condition, met, MEM_OUT_OF_RANGE by each of its four forms at the first address that is out
of range. -/
theorem witness_FaultCodesAndTheirConditions :
    (calledWith (called started 0 9) (callAt 9) [] ∧ ¬ timeOk (called started 0 9) (callAt 9)) ∧
    (calledWith pastTheEnd (callAt 2000000) [] ∧ executesIn pastTheEnd (callAt 2000000) ∧
      0xFFE < pastTheEnd.pc.toNat) ∧
    (∀ i w, calledWith (atIndex i w) (callAt 2000000) [] ∧ executesIn (atIndex i w) (callAt 2000000) ∧
      (atIndex i w).pc.toNat ≤ 0xFFE) ∧
    (decodeWord (atIndex 0xFFE#16 0xD013).fetchWord = .drw 0x0#4 0x1#4 0x3#4 ∧
      0xFFF < (atIndex 0xFFE#16 0xD013).i.toNat + (0x3#4).toNat - 1) ∧
    (decodeWord (atIndex 0xFFE#16 0xF033).fetchWord = .ldB 0x0#4 ∧
      0xFFF < (atIndex 0xFFE#16 0xF033).i.toNat + 2) ∧
    (decodeWord (atIndex 0xFF1#16 0xFF55).fetchWord = .stRegs 0xF#4 ∧
      0xFFF < (atIndex 0xFF1#16 0xFF55).i.toNat + (0xF#4).toNat) ∧
    (decodeWord (atIndex 0x1000#16 0xF065).fetchWord = .ldRegs 0x0#4 ∧
      0xFFF < (atIndex 0x1000#16 0xF065).i.toNat + (0x0#4).toNat) ∧
    (calledWith (stackFull 0x2300) (callAt 2000000) [] ∧
      executesIn (stackFull 0x2300) (callAt 2000000) ∧ (stackFull 0x2300).pc.toNat ≤ 0xFFE ∧
      (stackFull 0x2300).sp.val = 16 ∧ decodeWord (stackFull 0x2300).fetchWord = .call 0x300#12) ∧
    (calledWith (ready 0x00EE) (callAt 2000000) [] ∧ executesIn (ready 0x00EE) (callAt 2000000) ∧
      (ready 0x00EE).pc.toNat ≤ 0xFFE ∧ (ready 0x00EE).sp.val = 0 ∧
      decodeWord (ready 0x00EE).fetchWord = .ret) := by
  refine ⟨⟨⟨rfl, rfl⟩, fun h => absurd h.1 (by decide)⟩,
    ⟨⟨rfl, rfl⟩, ⟨⟨by decide, by decide⟩, by decide⟩, by decide⟩,
    fun i w => ⟨⟨rfl, rfl⟩, ⟨⟨Nat.zero_le _, Nat.zero_le _⟩, by
        show 1000000000 / 500 ≤ 2000000 - 0
        decide⟩, by
        show 0x200 ≤ 0xFFE
        decide⟩,
    by decide, by decide, by decide, by decide,
    ⟨⟨rfl, rfl⟩, ⟨⟨by decide, by decide⟩, by decide⟩, by decide, by decide, by decide⟩,
    ⟨⟨rfl, rfl⟩, ⟨⟨by decide, by decide⟩, by decide⟩, by decide, by decide, by decide⟩⟩

/-- A step of a Running core that ends Faulted, by its instruction, by its fetch and by its call. -/
theorem witness_FaultsArePrecise :
    ((ready 0x00EE).status = .running ∧
      ∃ t, step (ready 0x00EE) = .next t ∧
        t.status = .faulted (FaultRecord.mk .stackUnderflow 0x200#16 (some 0x00EE#16) none)) ∧
    (pastTheEnd.status = .running ∧
      ∃ t, step pastTheEnd = .next t ∧
        t.status = .faulted (FaultRecord.mk .fetchOutOfRange 0xFFF#16 none none)) ∧
    ((called started 0 9).status = .running ∧
      ∃ t, step (called started 0 9) = .next t ∧
        t.status = .faulted (FaultRecord.mk .hostTimeRegression 0x200#16 none (some 9))) := by
  refine ⟨⟨rfl, _, rfl, by decide⟩, ⟨rfl, _, rfl, by decide⟩, rfl, _, rfl, by decide⟩

theorem witness_EndedMachinesDoNotStep :
    (∃ r, ({ State.reset with
      status := .faulted (FaultRecord.mk .fetchOutOfRange 0x1000#16 none none) } : State).status =
        .faulted r) ∧
    ({ State.reset with status := .terminated } : State).status = .terminated := ⟨⟨_, rfl⟩, rfl⟩

theorem witness_HostTurnsDriveTheCore :
    ((∀ r, State.reset.status ≠ .faulted r) ∧ State.reset.status ≠ .terminated ∧
      State.reset.host = []) ∧
    ((∀ c, HostEvent.keyDown 0x7#4 ≠ .cycle c) ∧
      ({ State.reset with host := [.keyDown 0x7#4] } : State).status = .running) ∧
    (waiting (.cycle (callAt 0))).status = .waitingKey 0x3#4 5000000 := by
  refine ⟨⟨fun r h => (by cases h), fun h => (by cases h), rfl⟩, ⟨fun c h => (by cases h), rfl⟩, rfl⟩

theorem witness_Construction :
    1 ≤ Config.default.ips ∧ Config.default.rom.length ≤ 3584 ∧
    ({ Config.default with rom := List.replicate 3584 0#8 } : Config).rom.length ≤ 3584 ∧
    (0xFFF < 0x1000 ∧ 0x200 + Config.default.rom.length ≤ 0xFFF) ∧
    ∃ s, construct Config.default = .ok s :=
  ⟨by decide, by decide, Nat.le_of_eq List.length_replicate, by decide, _, rfl⟩

end Sys2Proof.Tests
end

section
/-! SUPPORT. The timers, the timing markers and beep_active under one instruction (spec/10_state.md R43, R44, R51,
spec/40_pipeline.md R154): what an update of the other fields leaves, and the two instructions that are not such
an update. -/

namespace Sys2Proof.Machine

/-- Both timers, both timing markers, beep_active, the configuration, the host's side and the latches are as
before. -/
def keepsTiming (s t : State) : Prop :=
  keepsSystem s t ∧ t.beepActive = s.beepActive ∧ keepsTimers s t

variable (s : State)

/-- An update of any of the ten other fields; which values it writes is left open, so that it serves every
instruction whose meaning is such an update. -/
theorem keepsTiming_update (v i pc sp stack mem disp clearRequested displayDirty status) :
    keepsTiming s { s with
      v := v, i := i, pc := pc, sp := sp, stack := stack, mem := mem, disp := disp,
      clearRequested := clearRequested, displayDirty := displayDirty, status := status } :=
  ⟨⟨rfl, rfl, rfl, rfl, rfl, rfl, rfl, rfl⟩, rfl, rfl, rfl⟩

theorem keepsTiming_skipIf (b : Bool) : keepsTiming s (s.skipIf b) := by
  cases b
  · rw [State.skipIf_false]; exact keepsTiming_update ..
  · rw [State.skipIf_true]; exact keepsTiming_update ..

theorem keepsTiming_storeBytes (base : Nat) (xs : List Byte) :
    keepsTiming s (s.storeBytes base xs) := by
  rw [State.storeBytes_eq]; exact keepsTiming_update ..

theorem keepsTiming_loadRegs (base n : Nat) : keepsTiming s (s.loadRegs base n) := by
  rw [State.loadRegs_eq]; exact keepsTiming_update ..

/-- The range check adds the fault only, which writes the status (R74, R311). -/
theorem keepsTiming_checked {s t : State} (base len : Nat) (h : keepsTiming s t) :
    keepsTiming s (s.checked base len t) := by
  obtain ⟨he, -⟩ | ⟨a, -, he⟩ := s.checked_cases t base len
  · rwa [he]
  · rw [he]; exact keepsTiming_update ..

theorem exec_ret_keepsTiming : ∃ t, exec .ret s = .next t ∧ keepsTiming s t := by
  obtain h | h := Nat.eq_zero_or_pos s.sp.val
  · exact ⟨_, exec_ret_empty s h, keepsTiming_update ..⟩
  · exact ⟨_, exec_ret_pop s h, keepsTiming_update ..⟩

theorem exec_call_keepsTiming (nnn : Addr12) :
    ∃ t, exec (.call nnn) s = .next t ∧ keepsTiming s t := by
  obtain h | h : s.sp.val < 16 ∨ s.sp.val = 16 := by omega
  · exact ⟨_, exec_call_push s nnn h, keepsTiming_update ..⟩
  · exact ⟨_, exec_call_full s nnn h, keepsTiming_update ..⟩

/-- Every instruction answers a next state: Fx15 writes DT and nothing else, Fx18 ST and nothing else, and every
other one leaves what `keepsTiming` lists (R43, R44, R51). -/
theorem exec_timing_cases (i : Instr) : ∃ t, exec i s = .next t ∧
    (keepsTiming s t ∨ (∃ x, i = .ldDtVx x ∧ t = { s with dt := s.reg x }) ∨
      ∃ x, i = .ldStVx x ∧ t = { s with st := s.reg x }) := by
  cases i with
  | ldDtVx x => exact ⟨_, exec_ldDtVx s x, .inr (.inl ⟨x, rfl, rfl⟩)⟩
  | ldStVx x => exact ⟨_, exec_ldStVx s x, .inr (.inr ⟨x, rfl, rfl⟩)⟩
  | ret =>
    obtain ⟨t, ht, hk⟩ := exec_ret_keepsTiming s
    exact ⟨t, ht, .inl hk⟩
  | call nnn =>
    obtain ⟨t, ht, hk⟩ := exec_call_keepsTiming s nnn
    exact ⟨t, ht, .inl hk⟩
  | seImm | sneImm | seReg | sneReg | skp | sknp => exact ⟨_, rfl, .inl (keepsTiming_skipIf ..)⟩
  | drw => exact ⟨_, rfl, .inl (keepsTiming_checked _ _ (keepsTiming_update ..))⟩
  | ldB | stRegs => exact ⟨_, rfl, .inl (keepsTiming_checked _ _ (keepsTiming_storeBytes ..))⟩
  | ldRegs => exact ⟨_, rfl, .inl (keepsTiming_checked _ _ (keepsTiming_loadRegs ..))⟩
  | cls | jp | jpV0 | ldI | addI | ldF | ldVxK | nop0 | nop
  | ldImm | addImm | ldReg | orReg | andReg | xorReg | rnd | ldVxDt
  | addReg | subReg | shr | subnReg | shl => exact ⟨_, rfl, .inl (keepsTiming_update ..)⟩

/-- Settles O47, from the three cases of `exec_timing_cases`. -/
theorem onlyTwoInstructionsWriteTimers : Obligations.OnlyTwoInstructionsWriteTimers := by
  unfold Obligations.OnlyTwoInstructionsWriteTimers
  intro i s
  obtain ⟨t, ht, hk | ⟨x, rfl, rfl⟩ | ⟨x, rfl, rfl⟩⟩ := exec_timing_cases s i
  · obtain ⟨hsys, hbeep, hdt, hst⟩ := hk
    exact ⟨t, ht, hsys, hbeep, .inl hdt, .inl hst⟩
  · exact ⟨_, ht, ⟨rfl, rfl, rfl, rfl, rfl, rfl, rfl, rfl⟩, rfl, .inr ⟨x, rfl⟩, .inl rfl⟩
  · exact ⟨_, ht, ⟨rfl, rfl, rfl, rfl, rfl, rfl, rfl, rfl⟩, rfl, .inl rfl, .inr ⟨x, rfl⟩⟩

end Sys2Proof.Machine
end

section
/-! SUPPORT. Memory under one instruction (spec/20_memory.md R70): every instruction but the two stores leaves memory
and the configuration, and so every byte, as it was. -/

namespace Sys2Proof.Machine

section

variable {s : State}

/-- The one criterion of every case below: an instruction that writes neither field leaves each byte as it reads. -/
theorem keepsMemory_of_eq {t : State} (hconfig : t.config = s.config) (hmem : t.mem = s.mem) :
    keepsMemory s t :=
  State.byteAt_congr hconfig hmem

theorem keepsMemory_loadRegs (base n : Nat) : keepsMemory s (s.loadRegs base n) := by
  rw [State.loadRegs_eq]; exact keepsMemory_of_eq rfl rfl

/-- The range check adds the fault only, which leaves memory (R74, R311). -/
theorem keepsMemory_checked {t : State} (base len : Nat) (h : keepsMemory s t) :
    keepsMemory s (s.checked base len t) := by
  obtain ⟨he, -⟩ | ⟨a, -, he⟩ := s.checked_cases t base len
  · rwa [he]
  · rw [he]; exact keepsMemory_of_eq (s.raiseInstr_config ..) (s.raiseInstr_mem ..)

variable (s)

theorem exec_ret_keepsMemory : ∃ t, exec .ret s = .next t ∧ keepsMemory s t := by
  obtain h | h := Nat.eq_zero_or_pos s.sp.val
  · exact ⟨_, exec_ret_empty s h, keepsMemory_of_eq rfl rfl⟩
  · exact ⟨_, exec_ret_pop s h, keepsMemory_of_eq rfl rfl⟩

theorem exec_call_keepsMemory (nnn : Addr12) :
    ∃ t, exec (.call nnn) s = .next t ∧ keepsMemory s t := by
  obtain h | h : s.sp.val < 16 ∨ s.sp.val = 16 := by omega
  · exact ⟨_, exec_call_push s nnn h, keepsMemory_of_eq rfl rfl⟩
  · exact ⟨_, exec_call_full s nnn h, keepsMemory_of_eq rfl rfl⟩

end

/-- Settles O45, instruction by instruction: the two stores are named by the statement, and every other instruction
writes neither memory nor the configuration. -/
theorem onlyTwoStoresChangeMemory : Obligations.OnlyTwoStoresChangeMemory := by
  unfold Obligations.OnlyTwoStoresChangeMemory
  intro i s
  cases i with
  | ldB x => exact ⟨_, rfl, .inr (.inl ⟨x, rfl⟩)⟩
  | stRegs x => exact ⟨_, rfl, .inr (.inr ⟨x, rfl⟩)⟩
  | ret =>
    obtain ⟨t, ht, hk⟩ := exec_ret_keepsMemory s
    exact ⟨t, ht, .inl hk⟩
  | call nnn =>
    obtain ⟨t, ht, hk⟩ := exec_call_keepsMemory s nnn
    exact ⟨t, ht, .inl hk⟩
  | drw => exact ⟨_, rfl, .inl (keepsMemory_checked _ _ (keepsMemory_of_eq rfl rfl))⟩
  | ldRegs => exact ⟨_, rfl, .inl (keepsMemory_checked _ _ (keepsMemory_loadRegs _ _))⟩
  | seImm | sneImm | seReg | sneReg | skp | sknp =>
    exact ⟨_, rfl, .inl (keepsMemory_of_eq (s.skipIf_config _) (s.skipIf_mem _))⟩
  | cls | jp | jpV0 | ldI | addI | ldF | ldVxK | ldDtVx | ldStVx | nop0 | nop
  | ldImm | addImm | ldReg | orReg | andReg | xorReg | rnd | ldVxDt
  | addReg | subReg | shr | subnReg | shl => exact ⟨_, rfl, .inl (keepsMemory_of_eq rfl rfl)⟩

end Sys2Proof.Machine
end

section
/-! SUPPORT. The word fetched at PC (spec/20_memory.md R77) as a number, and after its two bytes have been stored. -/

namespace Sys2Proof.Machine

/-- The first byte is bits 15:8, the second bits 7:0 (R77). -/
theorem wordOfBytes_toNat (hi lo : Byte) :
    (wordOfBytes hi lo).toNat = hi.toNat * 256 + lo.toNat := by
  have happend : (wordOfBytes hi lo).toNat = hi.toNat <<< 8 ||| lo.toNat := BitVec.toNat_append hi lo
  rw [happend, ← Nat.shiftLeft_add_eq_or_of_lt lo.isLt, Nat.shiftLeft_eq]

section

variable {s : State}

@[simp] theorem State.storeBytes_pc (base : Nat) (xs : List Byte) :
    (s.storeBytes base xs).pc = s.pc := by
  rw [State.storeBytes_eq]

/-- With both addresses in memory, the two bytes stored from PC on are the ones fetched (R73, R77). -/
theorem State.fetchWord_storeBytes (h : s.mem.wf s.config = true) (hpc : s.pc.toNat + 1 ≤ 0xFFF)
    (hi lo : Byte) : (s.storeBytes s.pc.toNat [hi, lo]).fetchWord = wordOfBytes hi lo := by
  have hfirst : (s.storeBytes s.pc.toNat [hi, lo]).byteAt s.pc.toNat = hi := by
    rw [State.byteAt_storeBytes h, if_pos (by simp; omega)]
    simp
  have hsecond : (s.storeBytes s.pc.toNat [hi, lo]).byteAt (s.pc.toNat + 1) = lo := by
    rw [State.byteAt_storeBytes h, if_pos (by simp; omega)]
    simp
  rw [State.fetchWord, State.storeBytes_pc, hfirst, hsecond]

end

/-- Settles O48: both halves are the big-endian value of `wordOfBytes`. -/
theorem fetchIsBigEndian : Obligations.FetchIsBigEndian := by
  unfold Obligations.FetchIsBigEndian
  refine ⟨fun s => wordOfBytes_toNat _ _, fun s hi lo h hpc => ?_⟩
  rw [State.fetchWord_storeBytes h hpc, wordOfBytes_toNat]

end Sys2Proof.Machine
end

section
/-! SUPPORT. The construction image (spec/20_memory.md R76), region by region, and the memory of a constructed
machine. -/

namespace Sys2Proof

theorem Config.image_font (c : Config) {a : Nat} (h : a < 80) : c.image a = c.font[a] := by
  simp [Config.image, h]

theorem Config.image_rom (c : Config) {k : Nat} (h : k < c.rom.length) :
    c.image (0x200 + k) = c.rom[k] := by
  simp [Config.image, h, show ¬ 0x200 + k < 80 by omega]

/-- Between FONT and 0x200, and past the end of the ROM (R76). -/
theorem Config.image_zero (c : Config) {a : Nat}
    (h : (80 ≤ a ∧ a < 0x200) ∨ 0x200 + c.rom.length ≤ a) : c.image a = 0#8 := by
  rw [Config.image, dif_neg (by omega)]
  split
  · exact List.getD_eq_default _ _ (by omega)
  · rfl

namespace Machine

theorem construct_accepted {c : Config} (hips : 1 ≤ c.ips) (hrom : c.rom.length ≤ 3584) :
    construct c = .ok (State.initial c) := by
  rw [construct, if_neg (by omega), if_neg (Nat.not_lt.2 hrom)]

/-- Memory lists nothing at construction, so every byte is the image's (log 13). -/
theorem State.byteAt_initial (c : Config) (a : Nat) : (State.initial c).byteAt a = c.image a := rfl

/-- Settles O54: the constructed memory is the image, which has the three regions. -/
theorem constructionMemoryContents : Obligations.ConstructionMemoryContents := by
  unfold Obligations.ConstructionMemoryContents
  intro c hips hrom
  refine ⟨State.initial c, construct_accepted hips hrom, fun a ha => ?_, fun k hk => ?_,
    fun a _ ha => ?_⟩
  · rw [State.byteAt_initial, c.image_font ha]
  · rw [State.byteAt_initial, c.image_rom hk]
  · rw [State.byteAt_initial, c.image_zero ha]

end Machine

end Sys2Proof
end

section
/-! SUPPORT. The decoder and the encoder undo each other (spec/30_encoding.md R101 to R107): a word is put together
again from the fields its pattern keeps, and the two no-op rows are the words of R105. -/

namespace Sys2Proof

variable {w : Word} {op n : Nibble} {nn : Byte}

/-! ### A word from the fields that vary, once the fixed ones are known -/

theorem wordA12_of_fixed (hop : (fieldOp w).toNat = op.toNat) : wordA12 op (fieldNnn w) = w := by
  rw [← BitVec.eq_of_toNat_eq hop, wordA12_fields]

theorem wordXB_of_fixed (hop : (fieldOp w).toNat = op.toNat) : wordXB op (fieldX w) (fieldNn w) = w := by
  rw [← BitVec.eq_of_toNat_eq hop, wordXB_fields]

theorem wordXS_of_fixed (hop : (fieldOp w).toNat = op.toNat) (hnn : fieldNn w = nn) :
    wordXB op (fieldX w) nn = w :=
  hnn ▸ wordXB_of_fixed hop

theorem wordXYN_of_fixed (hop : (fieldOp w).toNat = op.toNat) :
    wordOfNibbles op (fieldX w) (fieldY w) (fieldN w) = w := by
  rw [← BitVec.eq_of_toNat_eq hop, wordOfNibbles_fields]

theorem wordXY_of_fixed (hop : (fieldOp w).toNat = op.toNat) (hn : (fieldN w).toNat = n.toNat) :
    wordOfNibbles op (fieldX w) (fieldY w) n = w :=
  BitVec.eq_of_toNat_eq hn ▸ wordXYN_of_fixed hop

/-! ### The words of R105 -/

/-- The check of the second no-op row, in the fields the decoder tests. -/
theorem unrecognizedOutside0_iff : unrecognizedOutside0 w = true ↔
    ((fieldOp w).toNat = 0x5 ∧ fieldN w ≠ 0#4) ∨
    ((fieldOp w).toNat = 0x8 ∧ (fieldN w).toNat ∈ [0x8, 0x9, 0xA, 0xB, 0xC, 0xD, 0xF]) ∨
    ((fieldOp w).toNat = 0x9 ∧ fieldN w ≠ 0#4) ∨
    ((fieldOp w).toNat = 0xE ∧ fieldNn w ∉ [0x9E#8, 0xA1#8]) ∨
    ((fieldOp w).toNat = 0xF ∧
      fieldNn w ∉ [0x07#8, 0x0A#8, 0x15#8, 0x18#8, 0x1E#8, 0x29#8, 0x33#8, 0x55#8, 0x65#8]) := by
  simp [unrecognizedOutside0, fieldOp, fieldN, fieldNn, ← BitVec.toNat_inj, or_assoc]

theorem decodeWord_of_unrecognizedOutside0 (h : unrecognizedOutside0 w = true) :
    decodeWord w = .nop w := by
  obtain ⟨hop, hn⟩ | ⟨hop, hn⟩ | ⟨hop, hn⟩ | ⟨hop, hnn⟩ | ⟨hop, hnn⟩ := unrecognizedOutside0_iff.1 h
  · simp [decodeWord, hop, hn]
  · simp only [List.mem_cons, List.not_mem_nil, or_false] at hn
    obtain hn | hn | hn | hn | hn | hn | hn := hn <;> simp [decodeWord, decode8, hop, hn]
  · simp [decodeWord, hop, hn]
  · simp_all [decodeWord, decodeE]
  · simp_all [decodeWord, decodeF]

theorem decodeWord_of_family0 (hop : (fieldOp w).toNat = 0x0) (hcls : w ≠ 0x00E0#16)
    (hret : w ≠ 0x00EE#16) : decodeWord w = .nop0 (fieldNnn w) := by
  simp [decodeWord, hop, hcls, hret]

/-! ### Encoding what was decoded -/

/-- The term stands for the word: it is well formed and its encoding is the word. -/
def Instr.Renders (i : Instr) (w : Word) : Prop := i.wf = true ∧ encodeWord i = w

theorem nop0_renders (hop : (fieldOp w).toNat = 0x0) (hcls : w ≠ 0x00E0#16) (hret : w ≠ 0x00EE#16) :
    (Instr.nop0 (fieldNnn w)).Renders w := by
  have hw : wordA12 0x0#4 (fieldNnn w) = w := wordA12_of_fixed hop
  have hne : fieldNnn w ≠ 0x0E0#12 ∧ fieldNnn w ≠ 0x0EE#12 :=
    ⟨fun e => hcls (hw.symm.trans (by rw [e]; rfl)), fun e => hret (hw.symm.trans (by rw [e]; rfl))⟩
  exact ⟨by simp [Instr.wf, hne], hw⟩

theorem decode8_renders (hop : (fieldOp w).toNat = 0x8) : (decode8 w).Renders w := by
  unfold decode8
  split
  case h_10 => -- no pattern
    have hlt := (fieldN w).isLt
    refine ⟨unrecognizedOutside0_iff.2 (.inr (.inl ⟨hop, ?_⟩)), rfl⟩
    simp only [List.mem_cons, List.not_mem_nil, or_false]
    simp only [imp_false] at *
    omega
  all_goals next hn => exact ⟨rfl, wordXY_of_fixed hop hn⟩

theorem decodeE_renders (hop : (fieldOp w).toNat = 0xE) : (decodeE w).Renders w := by
  unfold decodeE
  split_ifs
  case neg => exact ⟨unrecognizedOutside0_iff.2 (.inr (.inr (.inr (.inl ⟨hop, by simp [*]⟩)))), rfl⟩
  all_goals next hnn => exact ⟨rfl, wordXS_of_fixed hop hnn⟩

theorem decodeF_renders (hop : (fieldOp w).toNat = 0xF) : (decodeF w).Renders w := by
  unfold decodeF
  split_ifs
  case neg => exact ⟨unrecognizedOutside0_iff.2 (.inr (.inr (.inr (.inr ⟨hop, by simp [*]⟩)))), rfl⟩
  all_goals next hnn => exact ⟨rfl, wordXS_of_fixed hop hnn⟩

/-- Every word, family by family of R103. -/
theorem decodeWord_renders (w : Word) : (decodeWord w).Renders w := by
  unfold decodeWord
  split
  case h_1 hop => -- 0x0
    split_ifs with hcls hret
    · exact ⟨rfl, hcls.symm⟩
    · exact ⟨rfl, hret.symm⟩
    · exact nop0_renders hop hcls hret
  -- format A12: 0x1, 0x2, 0xA, 0xB
  case h_2 hop | h_3 hop | h_11 hop | h_12 hop => exact ⟨rfl, wordA12_of_fixed hop⟩
  -- format XB: 0x3, 0x4, 0x6, 0x7, 0xC
  case h_4 hop | h_5 hop | h_7 hop | h_8 hop | h_13 hop => exact ⟨rfl, wordXB_of_fixed hop⟩
  case h_6 hop => -- 0x5
    split_ifs with hn
    · exact ⟨rfl, wordXY_of_fixed hop (congrArg _ hn)⟩
    · exact ⟨unrecognizedOutside0_iff.2 (.inl ⟨hop, hn⟩), rfl⟩
  case h_10 hop => -- 0x9
    split_ifs with hn
    · exact ⟨rfl, wordXY_of_fixed hop (congrArg _ hn)⟩
    · exact ⟨unrecognizedOutside0_iff.2 (.inr (.inr (.inl ⟨hop, hn⟩))), rfl⟩
  -- format XYN: 0xD
  case h_14 hop => exact ⟨rfl, wordXYN_of_fixed hop⟩
  -- the families with a map of their own: 0x8, 0xE, 0xF
  case h_9 hop => exact decode8_renders hop
  case h_15 hop => exact decodeE_renders hop
  case h_16 =>
    have hlt : (fieldOp w).toNat < 16 := (fieldOp w).isLt
    simp only [imp_false] at *
    exact decodeF_renders (by omega)

/-- Settles O2: `decodeWord_renders` is its statement, word by word. -/
theorem encodeOfDecodeIsTheWord : Obligations.EncodeOfDecodeIsTheWord := by
  unfold Obligations.EncodeOfDecodeIsTheWord
  exact decodeWord_renders

/-! ### Decoding what was encoded -/

theorem decodeWord_nop0 {nnn : Addr12} (h : (Instr.nop0 nnn).wf = true) :
    decodeWord (wordA12 0x0#4 nnn) = .nop0 nnn := by
  obtain ⟨hcls, hret⟩ : nnn ≠ 0x0E0#12 ∧ nnn ≠ 0x0EE#12 := by simpa [Instr.wf] using h
  rw [decodeWord_of_family0 (by simp), fieldNnn_wordA12]
  · exact fun e => hcls (by rw [← fieldNnn_wordA12 0x0#4 nnn, e]; rfl)
  · exact fun e => hret (by rw [← fieldNnn_wordA12 0x0#4 nnn, e]; rfl)

/-- The encoder fixes the family and the selecting nibble or byte, and the decoder reads each field where the
encoder put it; the two no-op rows are the words left over. -/
theorem decodeWord_encodeWord (i : Instr) (h : i.wf = true) : decodeWord (encodeWord i) = i := by
  cases i with
  | cls | ret => rfl
  | jp | call | ldI | jpV0 | seImm | sneImm | ldImm | addImm | rnd | drw | seReg | sneReg =>
    simp [encodeWord, decodeWord]
  | ldReg | orReg | andReg | xorReg | addReg | subReg | shr | subnReg | shl =>
    simp [encodeWord, decodeWord, decode8]
  | skp | sknp => simp [encodeWord, decodeWord, decodeE]
  | ldVxDt | ldVxK | ldDtVx | ldStVx | addI | ldF | ldB | stRegs | ldRegs =>
    simp [encodeWord, decodeWord, decodeF]
  | nop0 nnn => exact decodeWord_nop0 h
  | nop w => exact decodeWord_of_unrecognizedOutside0 h

theorem decode_bytes (w : Word) (rest : List Byte) :
    decode (highByte w :: lowByte w :: rest) = .ok (decodeWord w, rest) := by
  rw [decode, Machine.wordOfBytes_bytes]

/-- Settles O1: the two bytes give the word back, and the word the instruction. -/
theorem decodeOfEncodeIsTheInstruction : Obligations.DecodeOfEncodeIsTheInstruction := by
  unfold Obligations.DecodeOfEncodeIsTheInstruction
  intro i rest h
  calc decode (encode i ++ rest)
      = .ok (decodeWord (encodeWord i), rest) := decode_bytes (encodeWord i) rest
    _ = .ok (i, rest) := by rw [decodeWord_encodeWord i h]

/-- Settles O3: each word is the encoding of its instruction, so the round trip decodes it. -/
theorem writtenOutWordsDecode : Obligations.WrittenOutWordsDecode := by
  unfold Obligations.WrittenOutWordsDecode
  exact ⟨decodeWord_encodeWord .cls rfl, decodeWord_encodeWord (.call 0xABC#12) rfl,
    decodeWord_encodeWord (.ldImm 0xA#4 0xFA#8) rfl, decodeWord_encodeWord (.addReg 0xA#4 0xB#4) rfl,
    decodeWord_encodeWord (.drw 0x1#4 0x2#4 0x5#4) rfl, decodeWord_encodeWord (.sknp 0x5#4) rfl,
    decodeWord_encodeWord (.ldRegs 0x2#4) rfl, decodeWord_encodeWord (.nop 0x5001#16) rfl⟩

/-! ### The no-op rows are the list of R105 -/

/-- The second no-op row: the check is what lets the word decode to it, in both directions by the round trips. -/
theorem decodeWord_eq_nop_iff : decodeWord w = .nop w ↔ unrecognizedOutside0 w = true := by
  refine ⟨fun h => ?_, decodeWord_of_unrecognizedOutside0⟩
  obtain ⟨hwf, -⟩ := decodeWord_renders w
  rwa [h] at hwf

/-- The first no-op row: 00E0 and 00EE decode to other instructions. -/
theorem decodeWord_eq_nop0_iff : (∃ nnn, decodeWord w = .nop0 nnn) ↔
    (fieldOp w).toNat = 0x0 ∧ w ≠ 0x00E0#16 ∧ w ≠ 0x00EE#16 := by
  refine ⟨fun ⟨nnn, h⟩ => ⟨?_, ?_, ?_⟩,
    fun ⟨hop, hcls, hret⟩ => ⟨_, decodeWord_of_family0 hop hcls hret⟩⟩
  · obtain ⟨-, henc⟩ := decodeWord_renders w
    rw [← henc, h]
    simp [encodeWord]
  · rintro rfl; cases h
  · rintro rfl; cases h

theorem fieldOp_toNat (w : Word) : (fieldOp w).toNat = w.toNat / 4096 := by
  have hlt := w.isLt
  simp only [fieldOp, BitVec.extractLsb'_toNat, Nat.shiftRight_eq_div_pow]
  omega

theorem fieldN_toNat (w : Word) : (fieldN w).toNat = w.toNat % 16 := by
  simp [fieldN]

theorem fieldNn_toNat (w : Word) : (fieldNn w).toNat = w.toNat % 256 := by
  simp [fieldNn]

theorem listedUnrecognized_iff : Machine.listedUnrecognized w ↔
    ((fieldOp w).toNat = 0x0 ∧ w ≠ 0x00E0#16 ∧ w ≠ 0x00EE#16) ∨ unrecognizedOutside0 w = true := by
  rw [unrecognizedOutside0_iff]
  simp [Machine.listedUnrecognized, fieldOp_toNat, ← fieldN_toNat, ← fieldNn_toNat, ← BitVec.toNat_inj]

/-- The words that decode to a no-op row, first the one and then the other, are the list (R105). -/
theorem decodesToNop_iff : ((∃ nnn, decodeWord w = .nop0 nnn) ∨ decodeWord w = .nop w) ↔
    Machine.listedUnrecognized w := by
  rw [decodeWord_eq_nop0_iff, decodeWord_eq_nop_iff, listedUnrecognized_iff]

/-- Settles O4: both no-op rows leave the state (R106). -/
theorem unrecognizedWordsAreTheListedOnes : Obligations.UnrecognizedWordsAreTheListedOnes := by
  unfold Obligations.UnrecognizedWordsAreTheListedOnes
  refine fun w => ⟨decodesToNop_iff, fun hlisted s => ?_⟩
  obtain ⟨nnn, h⟩ | h := decodesToNop_iff.2 hlisted
  · rw [h, Machine.exec_nop0]
  · rw [h, Machine.exec_nop]

end Sys2Proof
end

section
/-! SUPPORT. One `cycle` call of a Running core (spec/40_pipeline.md R150 to R157): what its part before
the instruction gate leaves, and which of its ways it takes: a regressing time, a closed instruction gate, a faulting
fetch or an instruction. -/

namespace Sys2Proof.Machine

section

variable {s t : State} {c : HostCall} {es : List HostEvent}

/-- Before its instruction gate a call writes the timers, their marker, the outputs and the latch only. -/
theorem callPrelude_keeps : keepsRegs s (s.callPrelude c) ∧ (s.callPrelude c).i = s.i ∧
    keepsMemory s (s.callPrelude c) ∧ keepsDisplay s (s.callPrelude c) ∧
    keepsStack s (s.callPrelude c) :=
  ⟨State.reg_congr (s.callPrelude_v c), s.callPrelude_i c,
    keepsMemory_of_eq (s.callPrelude_config c) (s.callPrelude_mem c), fun y x => by simp,
    s.callPrelude_sp c, fun k => by simp⟩

/-- Only PC, the configuration and memory decide the word fetched. -/
theorem State.fetchWord_congr (hpc : t.pc = s.pc) (hc : t.config = s.config) (hm : t.mem = s.mem) :
    t.fetchWord = s.fetchWord := by
  simp only [State.fetchWord, hpc, State.byteAt_congr hc hm]

@[simp] theorem State.fetchWord_callPrelude : (s.callPrelude c).fetchWord = s.fetchWord :=
  State.fetchWord_congr (s.callPrelude_pc c) (s.callPrelude_config c) (s.callPrelude_mem c)

/-- The list of the host's later events has no part in it. -/
theorem preludeOnly_callPrelude :
    preludeOnly s (State.callPrelude { s with host := es } c) c.now := by
  simp [preludeOnly, keepsTimers]

/-! ### The gates of a call -/

theorem State.cycle_of_regression (h : c.now < s.lastTimerTick ∨ c.now < s.lastInstructionTick) :
    s.cycle c = .next (s.raise (FaultRecord.mk .hostTimeRegression s.pc none (some c.now))) :=
  if_pos (decide_eq_true h)

theorem timeRegresses_of_timeOk (h : timeOk s c) : ¬ s.timeRegresses c.now = true := by
  obtain ⟨htimer, hinstr⟩ := h
  simp [State.timeRegresses, htimer, hinstr]

theorem State.cycle_of_executesIn (h : executesIn s c) :
    s.cycle c = endOutcome c.now (s.callPrelude c).instruction := by
  obtain ⟨htime, hgate⟩ := h
  have hopen : s.gateOpen c.now = true := decide_eq_true hgate
  rw [State.cycle, if_neg (timeRegresses_of_timeOk htime), if_pos hopen]

theorem State.cycle_of_closedGate (htime : timeOk s c) (h : ¬ executesIn s c) :
    s.cycle c = .next (s.callPrelude c) := by
  have hclosed : ¬ s.gateOpen c.now = true := fun ho => h ⟨htime, of_decide_eq_true ho⟩
  rw [State.cycle, if_neg (timeRegresses_of_timeOk htime), if_neg hclosed]

/-! ### The instruction of a call -/

theorem State.instruction_of_fault (h : 0xFFE < s.pc.toNat) :
    s.instruction = .next (s.raise (FaultRecord.mk .fetchOutOfRange s.pc none none)) :=
  if_pos h

theorem State.instruction_of_fetch (h : s.pc.toNat ≤ 0xFFE) :
    s.instruction = exec (decodeWord s.fetchWord) s.fetched :=
  if_neg (Nat.not_lt.2 h)

theorem State.cycle_of_fetchFault (hexec : executesIn s c) (hpc : 0xFFE < s.pc.toNat) :
    s.cycle c =
      .next ((s.callPrelude c).raise (FaultRecord.mk .fetchOutOfRange s.pc none none)) := by
  rw [State.cycle_of_executesIn hexec, State.instruction_of_fault (by simpa using hpc),
    State.callPrelude_pc]
  rfl

theorem State.cycle_of_fetch (hexec : executesIn s c) (hpc : s.pc.toNat ≤ 0xFFE) :
    s.cycle c = endOutcome c.now (exec (decodeWord s.fetchWord) (s.callPrelude c).fetched) := by
  rw [State.cycle_of_executesIn hexec, State.instruction_of_fetch (by simpa using hpc),
    State.fetchWord_callPrelude]

theorem State.endCall_of_running {now : Nat} (h : s.status = .running) :
    s.endCall now = { s with lastInstructionTick := now } :=
  if_pos h

/-! ### The step that takes a listed call -/

theorem step_of_calledWith (hcall : calledWith s c es) :
    step s = State.cycle { s with host := es } c :=
  step_of_cycle hcall.1 hcall.2

theorem step_of_regression (hcall : calledWith s c es)
    (h : c.now < s.lastTimerTick ∨ c.now < s.lastInstructionTick) :
    step s = .next (State.raise { s with host := es }
      (FaultRecord.mk .hostTimeRegression s.pc none (some c.now))) :=
  (step_of_calledWith hcall).trans (State.cycle_of_regression h)

theorem step_of_closedGate (hcall : calledWith s c es) (htime : timeOk s c) (h : ¬ executesIn s c) :
    step s = .next (State.callPrelude { s with host := es } c) :=
  (step_of_calledWith hcall).trans (State.cycle_of_closedGate htime h)

theorem step_of_fetchFault (hcall : calledWith s c es) (hexec : executesIn s c)
    (hpc : 0xFFE < s.pc.toNat) :
    step s = .next ((State.callPrelude { s with host := es } c).raise
      (FaultRecord.mk .fetchOutOfRange s.pc none none)) :=
  (step_of_calledWith hcall).trans (State.cycle_of_fetchFault hexec hpc)

theorem step_of_fetch (hcall : calledWith s c es) (hexec : executesIn s c)
    (hpc : s.pc.toNat ≤ 0xFFE) :
    step s = endOutcome c.now
      (exec (decodeWord s.fetchWord) (State.callPrelude { s with host := es } c).fetched) :=
  (step_of_calledWith hcall).trans (State.cycle_of_fetch hexec hpc)

end

/-- Settles O36: the regressing call is `raise` and nothing else. -/
theorem regressingTimeFaults : Obligations.RegressingTimeFaults := by
  unfold Obligations.RegressingTimeFaults
  exact fun s c es hcall h => step_of_regression hcall h

/-- Settles O35: the next state is the call's part before the instruction gate, Faulted. -/
theorem fetchBeyondMemoryFaults : Obligations.FetchBeyondMemoryFaults := by
  unfold Obligations.FetchBeyondMemoryFaults
  intro s c es hcall hexec hpc
  obtain ⟨hregs, hi, hmem, hdisp, hstack⟩ :=
    callPrelude_keeps (s := { s with host := es }) (c := c)
  have hprelude : preludeOnly s (State.callPrelude { s with host := es } c) c.now :=
    preludeOnly_callPrelude
  exact ⟨_, step_of_fetchFault hcall hexec hpc, rfl, State.callPrelude_pc _ c, hregs, hi, hmem, hdisp,
    hstack, State.callPrelude_lastInstructionTick _ c, hprelude⟩

/-- Either no-op row answers the state it executes in. -/
theorem exec_of_nopRow {i : Instr} (s : State) (h : (∃ nnn, i = .nop0 nnn) ∨ ∃ w, i = .nop w) :
    exec i s = .next s := by
  obtain ⟨nnn, rfl⟩ | ⟨w, rfl⟩ := h
  · exact exec_nop0 s nnn
  · exact exec_nop s w

theorem step_of_nopRow {s : State} {c : HostCall} {es : List HostEvent} (hcall : calledWith s c es)
    (hexec : executesIn s c) (hpc : s.pc.toNat ≤ 0xFFE)
    (h : (∃ nnn, decodeWord s.fetchWord = .nop0 nnn) ∨ ∃ w, decodeWord s.fetchWord = .nop w) :
    step s = .next { (State.callPrelude { s with host := es } c).fetched with
      lastInstructionTick := c.now } := by
  have hrun : (State.callPrelude { s with host := es } c).fetched.status = .running := by
    simpa using hcall.1
  rw [step_of_fetch hcall hexec hpc, exec_of_nopRow _ h, ← State.endCall_of_running hrun]
  rfl

/-- Settles O33: the next state is the call's part before the instruction gate, with PC and the instruction marker
moved. -/
theorem unrecognizedWordOnlyMovesPc : Obligations.UnrecognizedWordOnlyMovesPc := by
  unfold Obligations.UnrecognizedWordOnlyMovesPc
  refine ⟨fun nnn w s => ⟨exec_nop0 s nnn, exec_nop s w⟩, fun s c es hcall hexec hpc hnop => ?_⟩
  obtain ⟨hregs, hi, hmem, hdisp, hstack⟩ :=
    callPrelude_keeps (s := { s with host := es }) (c := c)
  obtain ⟨htimers, -, hclear, hdirty, -⟩ := preludeOnly_callPrelude (s := s) (c := c) (es := es)
  have hnext : (s.pc + 2#16).toNat = s.pc.toNat + 2 := by
    simp [BitVec.toNat_add]; omega
  refine ⟨_, step_of_nopRow hcall hexec hpc hnop, ?_, rfl, hregs, hi, ?_, hmem, hdisp, hstack, hclear,
    hdirty, htimers⟩
  · simpa using hnext
  · simpa using hcall.1

end Sys2Proof.Machine
end

section
/-! SUPPORT. The two event outputs under one instruction (spec/10_state.md R50, spec/41_display.md R160, R161): every
instruction but 00E0 and Dxyn leaves both. -/

namespace Sys2Proof.Machine

/-- clear_requested and display_dirty are as before. -/
def keepsEventOutputs (s t : State) : Prop :=
  t.clearRequested = s.clearRequested ∧ t.displayDirty = s.displayDirty

section

variable {s : State}

theorem keepsEventOutputs_storeBytes (base : Nat) (xs : List Byte) :
    keepsEventOutputs s (s.storeBytes base xs) := by
  rw [State.storeBytes_eq]; exact ⟨rfl, rfl⟩

theorem keepsEventOutputs_loadRegs (base n : Nat) : keepsEventOutputs s (s.loadRegs base n) := by
  rw [State.loadRegs_eq]; exact ⟨rfl, rfl⟩

/-- The range check adds the fault only, which leaves the outputs (R74, R311). -/
theorem keepsEventOutputs_checked {t : State} (base len : Nat) (h : keepsEventOutputs s t) :
    keepsEventOutputs s (s.checked base len t) := by
  obtain ⟨he, -⟩ | ⟨a, -, he⟩ := s.checked_cases t base len
  · rwa [he]
  · rw [he]; exact ⟨rfl, rfl⟩

variable (s)

theorem exec_ret_keepsEventOutputs : ∃ t, exec .ret s = .next t ∧ keepsEventOutputs s t := by
  obtain h | h := Nat.eq_zero_or_pos s.sp.val
  · exact ⟨_, exec_ret_empty s h, rfl, rfl⟩
  · exact ⟨_, exec_ret_pop s h, rfl, rfl⟩

theorem exec_call_keepsEventOutputs (nnn : Addr12) :
    ∃ t, exec (.call nnn) s = .next t ∧ keepsEventOutputs s t := by
  obtain h | h : s.sp.val < 16 ∨ s.sp.val = 16 := by omega
  · exact ⟨_, exec_call_push s nnn h, rfl, rfl⟩
  · exact ⟨_, exec_call_full s nnn h, rfl, rfl⟩

theorem exec_keepsEventOutputs (i : Instr) (hcls : i ≠ .cls) (hdrw : ∀ x y n, i ≠ .drw x y n) :
    ∃ t, exec i s = .next t ∧ keepsEventOutputs s t := by
  cases i with
  | cls => exact absurd rfl hcls
  | drw x y n => exact absurd rfl (hdrw x y n)
  | ret => exact exec_ret_keepsEventOutputs s
  | call nnn => exact exec_call_keepsEventOutputs s nnn
  | seImm | sneImm | seReg | sneReg | skp | sknp =>
    exact ⟨_, rfl, s.skipIf_clearRequested _, s.skipIf_displayDirty _⟩
  | ldB | stRegs => exact ⟨_, rfl, keepsEventOutputs_checked _ _ (keepsEventOutputs_storeBytes ..)⟩
  | ldRegs => exact ⟨_, rfl, keepsEventOutputs_checked _ _ (keepsEventOutputs_loadRegs ..)⟩
  | jp | jpV0 | ldI | addI | ldF | ldVxK | ldDtVx | ldStVx | nop0 | nop
  | ldImm | addImm | ldReg | orReg | andReg | xorReg | rnd | ldVxDt
  | addReg | subReg | shr | subnReg | shl => exact ⟨_, rfl, rfl, rfl⟩

/-- A Dxyn leaves clear_requested, and of a core that has not faulted it sets display_dirty exactly if it does not
fault itself (R161, D4). -/
theorem exec_drw_outputs (x y n : Nibble) (hs : State.notFaulted s) (hd : s.displayDirty = false) :
    ∃ t, exec (.drw x y n) s = .next t ∧ t.clearRequested = s.clearRequested ∧
      (t.displayDirty = true ↔ State.notFaulted t) := by
  refine ⟨_, rfl, ?_⟩
  obtain ⟨he, -⟩ | ⟨a, -, he⟩ := s.checked_cases (s.drawSprite x y n) s.i.toNat n.toNat
  · rw [he]
    exact ⟨s.drawSprite_clearRequested x y n, iff_of_true (s.drawSprite_displayDirty x y n) hs⟩
  · rw [he]
    exact ⟨rfl, iff_of_false (by simp [hd]) fun h => h _ (s.raiseInstr_status _ _)⟩

/-- What both outputs tell of one instruction, from a state in which they are reset. -/
theorem exec_outputs_iff (i : Instr) (hs : State.notFaulted s) (hc : s.clearRequested = false)
    (hd : s.displayDirty = false) : ∃ t, exec i s = .next t ∧
      (t.clearRequested = true ↔ i = .cls) ∧
      (t.displayDirty = true ↔ (∃ x y n, i = .drw x y n) ∧ State.notFaulted t) := by
  by_cases hcls : i = .cls
  · subst hcls
    exact ⟨_, exec_cls s, by simp, by simp [hd]⟩
  by_cases hdrw : ∃ x y n, i = .drw x y n
  · obtain ⟨x, y, n, rfl⟩ := hdrw
    obtain ⟨t, ht, hclear, hdirty⟩ := exec_drw_outputs s x y n hs hd
    exact ⟨t, ht, by simp [hclear, hc], by simpa using hdirty⟩
  · obtain ⟨t, ht, hclear, hdirty⟩ :=
      exec_keepsEventOutputs s i hcls fun x y n h => hdrw ⟨x, y, n, h⟩
    exact ⟨t, ht, by simp [hclear, hc, hcls], by simp [hdirty, hd, hdrw]⟩

end

/-- Settles O39: the call resets both outputs before its instruction gate; behind a closed gate or a faulting fetch
they stay so, and otherwise the instruction decides them. -/
theorem outputsAreOfThisCallOnly : Obligations.OutputsAreOfThisCallOnly := by
  unfold Obligations.OutputsAreOfThisCallOnly
  intro s c es hcall htime
  by_cases hexec : executesIn s c
  · obtain hpc | hpc := Nat.lt_or_ge 0xFFE s.pc.toNat
    · refine ⟨_, step_of_fetchFault hcall hexec hpc, ?_, ?_⟩ <;> simp [Nat.not_le.2 hpc]
    · have hfresh : State.notFaulted (State.callPrelude { s with host := es } c).fetched := by
        simp [State.notFaulted, hcall.1]
      obtain ⟨t, ht, hclear, hdirty⟩ :=
        exec_outputs_iff _ (decodeWord s.fetchWord) hfresh (by simp) (by simp)
      refine ⟨t.endCall c.now, by rw [step_of_fetch hcall hexec hpc, ht]; rfl, ?_, ?_⟩
      · simp [hexec, hpc, hclear]
      · simp [hexec, hpc, hdirty, State.notFaulted]
  · refine ⟨_, step_of_closedGate hcall htime hexec, ?_, ?_⟩ <;> simp [hexec]

end Sys2Proof.Machine
end

section
/-! SUPPORT. The timing markers and the timers over one step (spec/40_pipeline.md R151 to R155, R159). -/

namespace Sys2Proof.Machine

/-- What R159(b) says of a step from `s` to `t`: each marker stays or moves by at least its period, the timers move
with their marker or by Fx15 and Fx18, and without a move of the instruction marker no instruction is seen. -/
def movesByPeriods (s t : State) : Prop :=
  (t.lastTimerTick = s.lastTimerTick ∨ s.lastTimerTick + 16666666 ≤ t.lastTimerTick) ∧
  (t.lastInstructionTick = s.lastInstructionTick ∨
    s.lastInstructionTick + 1000000000 / s.config.ips ≤ t.lastInstructionTick) ∧
  (t.lastTimerTick = s.lastTimerTick →
    (t.dt = s.dt ∨ ∃ x, decodeWord s.fetchWord = .ldDtVx x ∧ t.dt = s.reg x) ∧
    (t.st = s.st ∨ ∃ x, decodeWord s.fetchWord = .ldStVx x ∧ t.st = s.reg x)) ∧
  (s.status = .running → t.status = .running → s.config.ips ≤ 1000000000 →
    t.lastInstructionTick = s.lastInstructionTick →
    t.pc = s.pc ∧ keepsRegs s t ∧ t.i = s.i ∧ keepsMemory s t ∧ keepsDisplay s t ∧ keepsStack s t)

section

variable {s t : State} {c : HostCall}

/-- The timer gate, as the marker shows it: nothing moved, or the marker by at least TIMER_PERIOD (R153). -/
theorem State.callPrelude_timer_cases (s : State) (c : HostCall) :
    ((s.callPrelude c).lastTimerTick = s.lastTimerTick ∧ keepsTimers s (s.callPrelude c)) ∨
    s.lastTimerTick + 16666666 ≤ (s.callPrelude c).lastTimerTick := by
  by_cases h : timerPeriod ≤ c.now - s.lastTimerTick
  · refine .inr ?_
    rw [State.callPrelude_lastTimerTick, if_pos h]
    unfold timerPeriod at h
    omega
  · exact .inl (by simp [keepsTimers, h])

/-- Of the timers and markers an instruction step writes DT only, by Fx15, or ST only, by Fx18 (R285, R286). -/
theorem State.instruction_timing (h : s.instruction = .next t) :
    t.lastTimerTick = s.lastTimerTick ∧ t.lastInstructionTick = s.lastInstructionTick ∧
    (t.dt = s.dt ∨ ∃ x, decodeWord s.fetchWord = .ldDtVx x ∧ t.dt = s.reg x) ∧
    (t.st = s.st ∨ ∃ x, decodeWord s.fetchWord = .ldStVx x ∧ t.st = s.reg x) := by
  obtain ⟨-, rfl⟩ | ⟨-, hexec⟩ := State.instruction_cases h
  · exact ⟨rfl, rfl, .inl rfl, .inl rfl⟩
  obtain ⟨u, hu, hcases⟩ := exec_timing_cases s.fetched (decodeWord s.fetchWord)
  obtain rfl : u = t := by simpa [hu] using hexec
  obtain ⟨hsys, -, hdt, hst⟩ | ⟨x, hi, rfl⟩ | ⟨x, hi, rfl⟩ := hcases
  · obtain ⟨htimer, hinstr, -⟩ := hsys
    exact ⟨htimer, hinstr, .inl hdt, .inl hst⟩
  · exact ⟨rfl, rfl, .inr ⟨x, hi, rfl⟩, .inl rfl⟩
  · exact ⟨rfl, rfl, .inl rfl, .inr ⟨x, hi, rfl⟩⟩

theorem movesByPeriods_of_tookEvent (h : movesByPeriods s.tookEvent t) : movesByPeriods s t := by
  unfold State.tookEvent at h
  split at h <;> exact h

/-- A step that writes the status at most: a fault of the call itself, a termination, or no transaction. -/
theorem movesByPeriods_status (st : Status) : movesByPeriods s { s with status := st } :=
  ⟨.inl rfl, .inl rfl, fun _ => ⟨.inl rfl, .inl rfl⟩, fun _ _ _ _ =>
    ⟨rfl, fun _ => rfl, rfl, fun _ => rfl, fun _ _ => rfl, rfl, fun _ => rfl⟩⟩

/-- A call behind whose closed instruction gate only the timer gate has run. -/
theorem movesByPeriods_callPrelude : movesByPeriods s (s.callPrelude c) := by
  refine ⟨(s.callPrelude_timer_cases c).imp_left And.left, .inl (s.callPrelude_lastInstructionTick c),
    fun h => ?_, fun _ _ _ _ => ⟨s.callPrelude_pc c, callPrelude_keeps⟩⟩
  obtain ⟨-, hdt, hst⟩ | hmoved := s.callPrelude_timer_cases c
  · exact ⟨.inl hdt, .inl hst⟩
  · omega

theorem one_le_instructionPeriod (hpos : 1 ≤ s.config.ips) (hle : s.config.ips ≤ 1000000000) :
    1 ≤ 1000000000 / s.config.ips :=
  (Nat.one_le_div_iff hpos).2 hle

/-- A call that executes: the timers as before the gate or by the instruction, the instruction marker `now` unless the
core waits or has faulted. -/
theorem movesByPeriods_of_instruction {u : State} (hpos : 1 ≤ s.config.ips)
    (htime : s.lastInstructionTick ≤ c.now)
    (hgate : 1000000000 / s.config.ips ≤ c.now - s.lastInstructionTick)
    (h : (s.callPrelude c).instruction = .next u) : movesByPeriods s (u.endCall c.now) := by
  obtain ⟨htimer, hinstr, hdt, hst⟩ := State.instruction_timing h
  simp only [State.fetchWord_callPrelude, State.callPrelude_lastInstructionTick,
    (callPrelude_keeps (s := s) (c := c)).1 _] at hinstr hdt hst
  refine ⟨?_, ?_, fun hstays => ?_, fun _ hrun hle hstays => ?_⟩
  · rw [State.endCall_lastTimerTick, htimer]
    exact (s.callPrelude_timer_cases c).imp_left And.left
  · rw [State.endCall_lastInstructionTick, hinstr]
    split <;> omega
  · rw [State.endCall_lastTimerTick, htimer] at hstays
    obtain ⟨-, hpdt, hpst⟩ | hmoved := s.callPrelude_timer_cases c
    · rw [State.endCall_dt, State.endCall_st, ← hpdt, ← hpst]
      exact ⟨hdt, hst⟩
    · omega
  · rw [State.endCall_status] at hrun
    rw [State.endCall_lastInstructionTick, if_pos hrun] at hstays
    have hperiod := one_le_instructionPeriod hpos hle
    omega

theorem movesByPeriods_of_cycle (hpos : 1 ≤ s.config.ips) (h : s.cycle c = .next t) :
    movesByPeriods s t := by
  obtain ⟨-, rfl⟩ | ⟨-, -, rfl⟩ | ⟨htime, hgate, u, hu, rfl⟩ := State.cycle_cases h
  · exact movesByPeriods_status _
  · exact movesByPeriods_callPrelude
  · have hnot := of_decide_eq_false htime
    exact movesByPeriods_of_instruction hpos (by omega) (of_decide_eq_true hgate) hu

/-- The key-down that ends a wait moves the instruction marker to the suspended call's time (R284). -/
theorem movesByPeriods_keyRelease {x k : Nibble} {u : Nat} (hs : s.status = .waitingKey x u)
    (hu : s.lastInstructionTick + 1000000000 / s.config.ips ≤ u) :
    movesByPeriods s (s.keyRelease x u k) :=
  ⟨.inl rfl, .inr hu, fun _ => ⟨.inl rfl, .inl rfl⟩, fun hrun => by simp [hs] at hrun⟩

end

/-- Settles O40, by the host's transaction: a call, a key-down (whose time the invariant bounds), or one that leaves
everything but the status. -/
theorem markersMoveByWholePeriods : Obligations.MarkersMoveByWholePeriods := by
  unfold Obligations.MarkersMoveByWholePeriods
  intro s t hinv h
  obtain ⟨hpos, -⟩ : 1 ≤ s.config.ips ∧ s.config.rom.length ≤ maxRom := by
    simpa [Config.wf] using hinv.config_wf
  apply movesByPeriods_of_tookEvent
  obtain ⟨-, rfl⟩ | ⟨c, -, -, hc⟩ | ⟨x, u, k, hs, -, rfl⟩ | ⟨x, u, -, -, rfl⟩ := step_cases h
  · exact movesByPeriods_status _
  · exact movesByPeriods_of_cycle (by simpa using hpos) hc
  · obtain ⟨-, hu⟩ := hinv.wait_time x u hs
    exact movesByPeriods_keyRelease (by simpa using hs) (by simpa [Config.instructionPeriod] using hu)
  · exact movesByPeriods_status _

end Sys2Proof.Machine
end

section
/-! SUPPORT. One instruction under other inputs of its call (spec/40_pipeline.md R135): the shared operations do not
read the latched inputs, so they commute with replacing them. -/

namespace Sys2Proof.Machine

/-- The state with other latched inputs (log 7). -/
def State.withCall (s : State) (c : HostCall) : State := { s with call := c }

section

variable (s : State) (c : HostCall)

theorem State.storeBytes_withCall (base : Nat) (xs : List Byte) :
    (s.withCall c).storeBytes base xs = (s.storeBytes base xs).withCall c := by
  induction xs generalizing s base with
  | nil => rfl
  | cons x xs ih => exact ih (s.setByte base x) (base + 1)

theorem State.bytesFrom_withCall (base n : Nat) : (s.withCall c).bytesFrom base n = s.bytesFrom base n := by
  induction n generalizing base with
  | zero => rfl
  | succ n ih => exact congrArg (s.byteAt base :: ·) (ih (base + 1))

theorem State.regsFrom_withCall (j n : Nat) : (s.withCall c).regsFrom j n = s.regsFrom j n := by
  induction n generalizing j with
  | zero => rfl
  | succ n ih => exact congrArg (s.reg (BitVec.ofNat 4 j) :: ·) (ih (j + 1))

theorem State.storeRegs_withCall (base j n : Nat) :
    (s.withCall c).storeBytes base ((s.withCall c).regsFrom j n) =
      (s.storeBytes base (s.regsFrom j n)).withCall c := by
  rw [State.regsFrom_withCall, State.storeBytes_withCall]

theorem State.loadRegs_withCall (base n : Nat) :
    (s.withCall c).loadRegs base n = (s.loadRegs base n).withCall c := by
  induction n with
  | zero => rfl
  | succ n ih => rw [State.loadRegs, ih]; rfl

theorem State.drawSprite_withCall (x y n : Nibble) :
    (s.withCall c).drawSprite x y n = (s.drawSprite x y n).withCall c := by
  unfold State.drawSprite
  rw [State.bytesFrom_withCall]
  rfl

theorem State.skipIf_withCall (b : Bool) : (s.withCall c).skipIf b = (s.skipIf b).withCall c := by
  cases b <;> rfl

/-- The range check reads no input, so it is the effect that decides. -/
theorem State.checked_withCall {t u : State} (base len : Nat) (h : u = t.withCall c) :
    (s.withCall c).checked base len u = (s.checked base len t).withCall c := by
  unfold State.checked
  split
  · rfl
  · exact h

/-- The instruction answers the same next state but for the inputs. -/
def sameUnderCall (i : Instr) : Prop :=
  ∃ t, exec i s = .next t ∧ exec i (s.withCall c) = .next (t.withCall c)

theorem exec_ret_sameUnderCall : sameUnderCall s c .ret := by
  obtain h | h := Nat.eq_zero_or_pos s.sp.val
  · exact ⟨_, exec_ret_empty s h, exec_ret_empty (s.withCall c) h⟩
  · exact ⟨_, exec_ret_pop s h, exec_ret_pop (s.withCall c) h⟩

theorem exec_call_sameUnderCall (nnn : Addr12) : sameUnderCall s c (.call nnn) := by
  obtain h | h : s.sp.val < 16 ∨ s.sp.val = 16 := by omega
  · exact ⟨_, exec_call_push s nnn h, exec_call_push (s.withCall c) nnn h⟩
  · exact ⟨_, exec_call_full s nnn h, exec_call_full (s.withCall c) nnn h⟩

end

/-- Settles O41, instruction by instruction: for the four that read an input, the hypothesis says that it is the
same. -/
theorem instructionsReadAtMostOneHostInput : Obligations.InstructionsReadAtMostOneHostInput := by
  unfold Obligations.InstructionsReadAtMostOneHostInput
  intro i s c hrand hheld hnow
  change sameUnderCall s c i
  cases i with
  | ret => exact exec_ret_sameUnderCall s c
  | call nnn => exact exec_call_sameUnderCall s c nnn
  | rnd x nn =>
    refine ⟨_, exec_rnd s x nn, ?_⟩
    rw [exec_rnd, show (s.withCall c).call.rand = s.call.rand from hrand x nn rfl]
    rfl
  | skp x =>
    refine ⟨_, exec_skp s x, ?_⟩
    rw [exec_skp, show (s.withCall c).call.held = s.call.held from hheld x (.inl rfl),
      State.skipIf_withCall]
  | sknp x =>
    refine ⟨_, exec_sknp s x, ?_⟩
    rw [exec_sknp, show (s.withCall c).call.held = s.call.held from hheld x (.inr rfl),
      State.skipIf_withCall]
  | ldVxK x =>
    refine ⟨_, exec_ldVxK s x, ?_⟩
    rw [exec_ldVxK, show (s.withCall c).call.now = s.call.now from hnow x rfl]
    rfl
  | seImm | sneImm | seReg | sneReg =>
    exact ⟨_, rfl, congrArg Host.Outcome.next (s.skipIf_withCall c _)⟩
  | drw =>
    exact ⟨_, rfl, congrArg Host.Outcome.next
      (s.checked_withCall c _ _ (s.drawSprite_withCall c ..))⟩
  | ldB =>
    exact ⟨_, rfl, congrArg Host.Outcome.next
      (s.checked_withCall c _ _ (s.storeBytes_withCall c ..))⟩
  | stRegs =>
    exact ⟨_, rfl, congrArg Host.Outcome.next
      (s.checked_withCall c _ _ (s.storeRegs_withCall c ..))⟩
  | ldRegs =>
    exact ⟨_, rfl, congrArg Host.Outcome.next
      (s.checked_withCall c _ _ (s.loadRegs_withCall c ..))⟩
  | cls | jp | jpV0 | ldI | addI | ldF | ldDtVx | ldStVx | nop0 | nop
  | ldImm | addImm | ldReg | orReg | andReg | xorReg | ldVxDt
  | addReg | subReg | shr | subnReg | shl => exact ⟨_, rfl, rfl⟩

end Sys2Proof.Machine
end

section
/-! The display instruction 00E0 (spec/41_display.md R160): what a cleared screen leaves unchanged. -/

namespace Sys2Proof.Machine

/-- Settles O25: the next state differs in the display, which is the clear one, and in clear_requested. -/
theorem clearZeroesEveryPixel : Obligations.ClearZeroesEveryPixel := by
  unfold Obligations.ClearZeroesEveryPixel
  intro s
  have htiming : keepsTiming s { s with disp := Display.clear, clearRequested := true } :=
    keepsTiming_update ..
  obtain ⟨hsystem, hbeep, htimers⟩ := htiming
  exact ⟨_, exec_cls s, Display.get_clear, rfl, rfl, hbeep, fun _ => rfl, rfl, rfl, rfl,
    keepsMemory_of_eq rfl rfl, ⟨rfl, fun _ => rfl⟩, htimers, hsystem⟩

end Sys2Proof.Machine
end

section
/-! SUPPORT. Control flow and the key skips (spec/42_control_flow.md R180 to R189, spec/45_timers_input.md R280, R281):
what a jump and a skip write, and what a call and the return from it leave. -/

namespace Sys2Proof.Machine

section

variable (s : State)

theorem writesPcOnly_jumpTo (w : Word) : writesPcOnly s (s.jumpTo w) := by
  obtain ⟨hsystem, hbeep, htimers⟩ : keepsTiming s (s.jumpTo w) := keepsTiming_update ..
  exact ⟨fun _ => rfl, rfl, rfl, keepsMemory_of_eq rfl rfl, fun _ _ => rfl, ⟨rfl, fun _ => rfl⟩,
    htimers, ⟨rfl, rfl, hbeep⟩, hsystem⟩

/-- Both outcomes of a skip are jumps: to the instruction after the next one, or to where PC is already. -/
theorem State.skipIf_eq_jumpTo (b : Bool) :
    s.skipIf b = s.jumpTo (if b then s.pc + 2#16 else s.pc) := by
  cases b <;> rfl

theorem writesPcOnly_skipIf (b : Bool) : writesPcOnly s (s.skipIf b) := by
  rw [State.skipIf_eq_jumpTo]
  exact writesPcOnly_jumpTo s _

theorem State.skipIf_pc_toNat (b : Bool) :
    (s.skipIf b).pc.toNat = if b = true then (s.pc.toNat + 2) % 65536 else s.pc.toNat := by
  rw [State.skipIf_pc, apply_ite BitVec.toNat, BitVec.toNat_add]
  rfl

theorem zextAddr_toNat (nnn : Addr12) : (zextAddr nnn).toNat = nnn.toNat :=
  BitVec.toNat_setWidth_of_le (by decide)

/-- The return takes the pushed address from the slot that the call wrote, and SP back to that slot (R180). -/
theorem exec_call_then_ret (nnn : Addr12) (h : s.sp.val < 16) :
    ∃ t, exec (.call nnn) s = .next t ∧
      exec .ret t = .next { s with stack := s.stack.set s.sp.val s.pc h } := by
  refine ⟨_, exec_call_push s nnn h, ?_⟩
  rw [exec_ret_pop _ (Nat.succ_pos s.sp.val)]
  simp

end

/-- Settles O18: the state after both differs from the one before in the slot at SP only. -/
theorem callThenReturnComesBack : Obligations.CallThenReturnComesBack := by
  unfold Obligations.CallThenReturnComesBack
  intro nnn s h
  obtain ⟨t, hcall, hret⟩ := exec_call_then_ret s nnn h
  obtain ⟨hsystem, hbeep, htimers⟩ :
      keepsTiming s { s with stack := s.stack.set s.sp.val s.pc h } := keepsTiming_update ..
  have hslots (j : Fin 16) (hj : j.val ≠ s.sp.val) :
      (s.stack.set s.sp.val s.pc h)[j] = s.stack[j] :=
    Vector.getElem_set_ne h j.isLt hj.symm
  exact ⟨t, _, hcall, hret, rfl, rfl, hslots, fun _ => rfl, rfl, rfl, keepsMemory_of_eq rfl rfl,
    fun _ _ => rfl, htimers, ⟨rfl, rfl, hbeep⟩, hsystem⟩

/-- Settles O28: both are skips on the latched answer, ExA1 on its negation. -/
theorem keySkips : Obligations.KeySkips := by
  unfold Obligations.KeySkips
  intro x s
  refine ⟨⟨_, exec_skp s x, writesPcOnly_skipIf s _, s.skipIf_pc_toNat _⟩,
    ⟨_, exec_sknp s x, writesPcOnly_skipIf s _, ?_⟩⟩
  rw [State.skipIf_pc_toNat]
  cases s.call.held <;> rfl

/-- Settles O12: the jump is `jumpTo` with the zero-extended target. -/
theorem jumpGoesToItsTarget : Obligations.JumpGoesToItsTarget := by
  unfold Obligations.JumpGoesToItsTarget
  exact fun nnn s => ⟨_, exec_jp s nnn, zextAddr_toNat nnn, writesPcOnly_jumpTo s _⟩

end Sys2Proof.Machine
end

section
/-! SUPPORT. The register and ALU instructions (spec/43_alu.md R220 to R231): what a write to the registers leaves
unchanged, and the flag values as numbers. -/

namespace Sys2Proof.Machine

section

variable (s : State)

/-! ### Instructions that write general registers only -/

theorem writesRegsOnly_update {w : Nibble → Prop} (v : Vector Byte 16)
    (hregs : keepsRegsBut s { s with v := v } w) : writesRegsOnly s { s with v := v } w := by
  obtain ⟨hsystem, hbeep, htimers⟩ : keepsTiming s { s with v := v } := keepsTiming_update ..
  exact ⟨hregs, rfl, rfl, rfl, keepsMemory_of_eq rfl rfl, fun _ _ => rfl, ⟨rfl, fun _ => rfl⟩,
    htimers, ⟨rfl, rfl, hbeep⟩, hsystem⟩

theorem writesRegsOnly_setReg (x : Nibble) (b : Byte) : writesRegsOnly s (s.setReg x b) (· = x) :=
  writesRegsOnly_update s _ fun _ hj => s.reg_setReg_ne b hj

theorem State.reg_setResultAndFlag_vf (x : Nibble) (r f : Byte) :
    (s.setResultAndFlag x r f).reg vf = f := by
  rw [State.reg_setResultAndFlag, if_pos rfl]

theorem State.reg_setResultAndFlag_self {x : Nibble} (r f : Byte) (h : x ≠ vf) :
    (s.setResultAndFlag x r f).reg x = r := by
  rw [State.reg_setResultAndFlag, if_neg h, if_pos rfl]

theorem writesRegsOnly_setResultAndFlag (x : Nibble) (r f : Byte) :
    writesRegsOnly s (s.setResultAndFlag x r f) (fun j => j = x ∨ j = vf) := by
  refine writesRegsOnly_update s _ fun j hj => ?_
  obtain ⟨hx, hvf⟩ := not_or.mp hj
  exact (s.reg_setResultAndFlag x j r f).trans (by rw [if_neg hvf, if_neg hx])

variable {s}

/-- What R220 says of every instruction that writes a result and then a flag, with both as numbers. -/
theorem exec_resultAndFlag {i : Instr} {x : Nibble} {r f : Byte} {result flag : Nat}
    (h : exec i s = .next (s.setResultAndFlag x r f)) (hr : r.toNat = result) (hf : f.toNat = flag) :
    ∃ t, exec i s = .next t ∧ (x ≠ vf → (t.reg x).toNat = result) ∧ (t.reg vf).toNat = flag ∧
      writesRegsOnly s t (fun j => j = x ∨ j = vf) := by
  refine ⟨_, h, fun hx => ?_, ?_, writesRegsOnly_setResultAndFlag s x r f⟩
  · rw [s.reg_setResultAndFlag_self r f hx, hr]
  · rw [s.reg_setResultAndFlag_vf, hf]

end

/-! ### Results and flags as numbers -/

section

variable (a b : Byte)

theorem flagByte_decide_toNat (p : Prop) [Decidable p] :
    (flagByte (decide p)).toNat = if p then 1 else 0 := by
  by_cases h : p
  · rw [decide_eq_true h, if_pos h]; rfl
  · rw [decide_eq_false h, if_neg h]; rfl

theorem flagByte_carryOf_toNat :
    (flagByte (carryOf a b)).toNat = if a.toNat + b.toNat > 255 then 1 else 0 :=
  flagByte_decide_toNat _

theorem flagByte_greaterOf_toNat :
    (flagByte (greaterOf a b)).toNat = if a.toNat > b.toNat then 1 else 0 :=
  flagByte_decide_toNat _

theorem shiftedOutRight_toNat : (shiftedOutRight a).toNat = a.toNat % 2 :=
  (BitVec.toNat_and a 0x01#8).trans (Nat.and_one_is_mod a.toNat)

/-- The difference modulo 256, written so that the subtraction of naturals does not stop at 0. -/
theorem byte_sub_toNat : (a - b).toNat = (a.toNat + 256 - b.toNat) % 256 := by
  have hb : b.toNat < 256 := b.isLt
  rw [BitVec.toNat_sub]
  congr 1
  omega

theorem byte_shiftRight_one_toNat : (a >>> 1).toNat = a.toNat / 2 := by
  rw [BitVec.toNat_ushiftRight, Nat.shiftRight_one]

end

/-! ### The statements -/

/-- Settles O7: the sum of bytes is modulo 256, and the flag written is the carry. -/
theorem addRegisterSumAndCarry : Obligations.AddRegisterSumAndCarry := by
  unfold Obligations.AddRegisterSumAndCarry
  exact fun x y s =>
    exec_resultAndFlag (exec_addReg s x y) (BitVec.toNat_add _ _) (flagByte_carryOf_toNat _ _)

/-- Settles O8: the two forms differ in which operand is the minuend. -/
theorem subtractionsAndTheirFlag : Obligations.SubtractionsAndTheirFlag := by
  unfold Obligations.SubtractionsAndTheirFlag
  intro x y s
  constructor
  · exact exec_resultAndFlag (exec_subReg s x y) (byte_sub_toNat _ _) (flagByte_greaterOf_toNat _ _)
  · exact exec_resultAndFlag (exec_subnReg s x y) (byte_sub_toNat _ _) (flagByte_greaterOf_toNat _ _)

/-- Settles O9: y does not occur in what 8xy6 answers. -/
theorem shiftRightAndTheBitShiftedOut : Obligations.ShiftRightAndTheBitShiftedOut := by
  unfold Obligations.ShiftRightAndTheBitShiftedOut
  exact fun x y s =>
    exec_resultAndFlag (exec_shr s x y) (byte_shiftRight_one_toNat _) (shiftedOutRight_toNat _)

/-- Settles O5: both write Vx and no flag. -/
theorem immediateLoadsAndAdds : Obligations.ImmediateLoadsAndAdds := by
  unfold Obligations.ImmediateLoadsAndAdds
  intro x nn s
  refine ⟨⟨_, exec_ldImm s x nn, s.reg_setReg_self x nn, writesRegsOnly_setReg s x _⟩,
    ⟨_, exec_addImm s x nn, ?_, writesRegsOnly_setReg s x _⟩⟩
  rw [State.reg_setReg_self, BitVec.toNat_add]

/-- Settles O6: each writes Vx and no flag, and the bits of the result are those of the operation on bytes. -/
theorem copyAndLogicResults : Obligations.CopyAndLogicResults := by
  unfold Obligations.CopyAndLogicResults
  intro x y s
  refine ⟨⟨_, exec_ldReg s x y, s.reg_setReg_self x _, writesRegsOnly_setReg s x _⟩,
    ⟨_, exec_orReg s x y, writesRegsOnly_setReg s x _, fun k _ => ?or⟩,
    ⟨_, exec_andReg s x y, writesRegsOnly_setReg s x _, fun k _ => ?and⟩,
    ⟨_, exec_xorReg s x y, writesRegsOnly_setReg s x _, fun k _ => ?xor⟩⟩
  case or => rw [State.reg_setReg_self, BitVec.getLsbD_or]
  case and => rw [State.reg_setReg_self, BitVec.getLsbD_and]
  case xor => rw [State.reg_setReg_self, BitVec.getLsbD_xor]

end Sys2Proof.Machine
end

section
/-! SUPPORT. The index register (spec/44_index_memory.md R250 to R252): what a write to I leaves unchanged, and
the two values loaded into it as numbers. -/

namespace Sys2Proof.Machine

/-- An instruction that writes I only. -/
def writesIndexOnly (s t : State) : Prop :=
  keepsRegs s t ∧ t.pc = s.pc ∧ t.status = s.status ∧ keepsRest s t

theorem writesIndexOnly_setI (s : State) (w : Word) : writesIndexOnly s (s.setI w) := by
  obtain ⟨hsystem, hbeep, htimers⟩ : keepsTiming s (s.setI w) := keepsTiming_update ..
  exact ⟨fun _ => rfl, rfl, rfl, keepsMemory_of_eq rfl rfl, fun _ _ => rfl, ⟨rfl, fun _ => rfl⟩,
    htimers, ⟨rfl, rfl, hbeep⟩, hsystem⟩

theorem zextByte_toNat (b : Byte) : (zextByte b).toNat = b.toNat :=
  BitVec.toNat_setWidth_of_le (by decide)

/-- The address of a glyph, exact for every byte: 255 * 5 is below 2^16 (R252). -/
theorem zextByte_mul_five_toNat (b : Byte) : (zextByte b * 5#16).toNat = b.toNat * 5 := by
  have hb : b.toNat < 256 := b.isLt
  rw [BitVec.toNat_mul, zextByte_toNat]
  exact Nat.mod_eq_of_lt (show b.toNat * 5 < 65536 by omega)

/-- Settles O19: both are writes to I, of nnn and of Vx times 5. -/
theorem indexLoads : Obligations.IndexLoads := by
  unfold Obligations.IndexLoads
  exact fun nnn x s =>
    ⟨⟨_, exec_ldI s nnn, zextAddr_toNat nnn, writesIndexOnly_setI s _⟩,
      ⟨_, exec_ldF s x, zextByte_mul_five_toNat _, writesIndexOnly_setI s _⟩⟩

end Sys2Proof.Machine
end

section
/-! SUPPORT. The timer transfers (spec/45_timers_input.md R282, R285, R286): what a write to the timers leaves
unchanged. -/

namespace Sys2Proof.Machine

/-- An instruction that writes the timers only. -/
def writesTimersOnly (s t : State) : Prop :=
  keepsRegs s t ∧ t.pc = s.pc ∧ t.i = s.i ∧ t.status = s.status ∧ keepsMemory s t ∧
  keepsDisplay s t ∧ keepsStack s t ∧ keepsOutputs s t ∧ keepsSystem s t

/-- beep_active is among the outputs kept: it follows ST in the next call only (R286). -/
theorem writesTimersOnly_update (s : State) (dt st : Byte) :
    writesTimersOnly s { s with dt := dt, st := st } := by
  have hsystem : keepsSystem s { s with dt := dt, st := st } :=
    ⟨rfl, rfl, rfl, rfl, rfl, rfl, rfl, rfl⟩
  exact ⟨fun _ => rfl, rfl, rfl, rfl, keepsMemory_of_eq rfl rfl, fun _ _ => rfl,
    ⟨rfl, fun _ => rfl⟩, ⟨rfl, rfl, rfl⟩, hsystem⟩

/-- Settles O29: Fx07 is a register write, Fx15 and Fx18 each write one timer and keep the other. -/
theorem timerTransfers : Obligations.TimerTransfers := by
  unfold Obligations.TimerTransfers
  exact fun x s =>
    ⟨⟨_, exec_ldVxDt s x, s.reg_setReg_self x s.dt, writesRegsOnly_setReg s x s.dt⟩,
      ⟨_, exec_ldDtVx s x, rfl, rfl, writesTimersOnly_update s (s.reg x) s.st⟩,
      ⟨_, exec_ldStVx s x, rfl, rfl, writesTimersOnly_update s s.dt (s.reg x)⟩⟩

end Sys2Proof.Machine
end

section
/-! SUPPORT. The status that an instruction, a call and a step leave (spec/60_exceptions.md R311 to R315,
spec/45_timers_input.md R283): which fault an instruction raises, and that a Running core goes on running, waits by
Fx0A, or takes one fault with nothing else done. -/

namespace Sys2Proof.Machine

/-- The fault of a range check of `len` bytes at I (R74). -/
def State.rangeCode (s : State) (len : Nat) : Option FaultCode :=
  (rangeFault s.i.toNat len).map fun _ => .memOutOfRange

/-- The fault that an instruction raises, if any (R312). -/
def State.instrFault (s : State) : Instr → Option FaultCode
  | .ret => if s.sp.val = 0 then some .stackUnderflow else none
  | .call _ => if s.sp.val = 16 then some .stackOverflow else none
  | .drw _ _ n => s.rangeCode n.toNat
  | .ldB _ => s.rangeCode 3
  | .stRegs x => s.rangeCode (x.toNat + 1)
  | .ldRegs x => s.rangeCode (x.toNat + 1)
  | _ => none

/-- What `exec i s = .next t` says of the status of `t`: as before, in the wait of Fx0A, or Faulted by `raiseInstr`
with nothing else done. -/
def endsInstr (s t : State) (i : Instr) : Prop :=
  (s.instrFault i = none ∧ t.status = s.status) ∨
  (s.instrFault i = none ∧ ∃ x, i = .ldVxK x ∧ t.status = .waitingKey x s.call.now) ∨
  ∃ f d, s.instrFault i = some f ∧ t = s.raiseInstr f d

section

variable {s t : State} {c : HostCall}

/-! ### The fault of an instruction -/

/-- Only I and SP decide it. -/
theorem State.instrFault_congr (hi : t.i = s.i) (hsp : t.sp = s.sp) (i : Instr) :
    t.instrFault i = s.instrFault i := by
  cases i <;> simp only [State.instrFault, State.rangeCode, hi, hsp]

theorem State.rangeCode_eq_some_iff {len : Nat} {f : FaultCode} :
    s.rangeCode len = some f ↔ (0 < len ∧ 0xFFF < s.i.toNat + len - 1) ∧ f = .memOutOfRange := by
  unfold State.rangeCode
  rw [rangeFault_eq]
  split <;> simp [*, eq_comm]

theorem State.instrFault_eq_memOutOfRange_iff {i : Instr} :
    s.instrFault i = some .memOutOfRange ↔
      (∃ x y n, i = .drw x y n ∧ n ≠ 0#4 ∧ 0xFFF < s.i.toNat + n.toNat - 1) ∨
      (∃ x, i = .ldB x ∧ 0xFFF < s.i.toNat + 2) ∨
      (∃ x, i = .stRegs x ∧ 0xFFF < s.i.toNat + x.toNat) ∨
      (∃ x, i = .ldRegs x ∧ 0xFFF < s.i.toNat + x.toNat) := by
  cases i with
  | drw x y n =>
    have hpos : 0 < n.toNat ↔ n ≠ 0#4 := by simp [Nat.pos_iff_ne_zero, ← BitVec.toNat_inj]
    simp [State.instrFault, State.rangeCode_eq_some_iff, hpos]
  | ldB | stRegs | ldRegs => simp [State.instrFault, State.rangeCode_eq_some_iff]
  | _ => simp [State.instrFault]

theorem State.instrFault_eq_stackOverflow_iff {i : Instr} :
    s.instrFault i = some .stackOverflow ↔ s.sp.val = 16 ∧ ∃ nnn, i = .call nnn := by
  cases i with
  | drw | ldB | stRegs | ldRegs => simp [State.instrFault, State.rangeCode_eq_some_iff]
  | _ => simp [State.instrFault]

theorem State.instrFault_eq_stackUnderflow_iff {i : Instr} :
    s.instrFault i = some .stackUnderflow ↔ s.sp.val = 0 ∧ i = .ret := by
  cases i with
  | drw | ldB | stRegs | ldRegs => simp [State.instrFault, State.rangeCode_eq_some_iff]
  | _ => simp [State.instrFault]

/-- The other two codes are of the fetch and of the call, not of an instruction. -/
theorem State.instrFault_not_of_fetch_or_call {i : Instr} {f : FaultCode} (h : s.instrFault i = some f) :
    ¬ (f = .fetchOutOfRange ∨ f = .hostTimeRegression) := by
  rintro (rfl | rfl) <;> cases i with
  | drw | ldB | stRegs | ldRegs => simp [State.instrFault, State.rangeCode_eq_some_iff] at h
  | _ => simp [State.instrFault] at h

/-! ### The end of an instruction -/

theorem endsInstr_checked {i : Instr} {len : Nat} (hi : s.instrFault i = s.rangeCode len)
    (ht : t.status = s.status) : endsInstr s (s.checked s.i.toNat len t) i := by
  obtain ⟨he, hr⟩ | ⟨a, hr, he⟩ := s.checked_cases t s.i.toNat len
  · exact .inl ⟨by rw [hi, State.rangeCode, hr]; rfl, by rwa [he]⟩
  · exact .inr (.inr ⟨_, _, by rw [hi, State.rangeCode, hr]; rfl, he⟩)

theorem exec_ret_ends (s : State) : ∃ t, exec .ret s = .next t ∧ endsInstr s t .ret := by
  obtain h | h := Nat.eq_zero_or_pos s.sp.val
  · exact ⟨_, exec_ret_empty s h, .inr (.inr ⟨_, _, if_pos h, rfl⟩)⟩
  · exact ⟨_, exec_ret_pop s h, .inl ⟨if_neg (by omega), rfl⟩⟩

theorem exec_call_ends (s : State) (nnn : Addr12) :
    ∃ t, exec (.call nnn) s = .next t ∧ endsInstr s t (.call nnn) := by
  obtain h | h : s.sp.val < 16 ∨ s.sp.val = 16 := by omega
  · exact ⟨_, exec_call_push s nnn h, .inl ⟨if_neg (by omega), rfl⟩⟩
  · exact ⟨_, exec_call_full s nnn h, .inr (.inr ⟨_, _, if_pos h, rfl⟩)⟩

theorem exec_ends (i : Instr) (s : State) : ∃ t, exec i s = .next t ∧ endsInstr s t i := by
  cases i with
  | ldVxK x => exact ⟨_, exec_ldVxK s x, .inr (.inl ⟨rfl, x, rfl, rfl⟩)⟩
  | ret => exact exec_ret_ends s
  | call nnn => exact exec_call_ends s nnn
  | drw => exact ⟨_, rfl, endsInstr_checked rfl (s.drawSprite_status ..)⟩
  | ldB | stRegs => exact ⟨_, rfl, endsInstr_checked rfl (by rw [State.storeBytes_eq])⟩
  | ldRegs => exact ⟨_, rfl, endsInstr_checked rfl (by rw [State.loadRegs_eq])⟩
  | seImm | sneImm | seReg | sneReg | skp | sknp =>
    exact ⟨_, rfl, .inl ⟨rfl, s.skipIf_status _⟩⟩
  | cls | jp | jpV0 | ldI | addI | ldF | ldDtVx | ldStVx | nop0 | nop
  | ldImm | addImm | ldReg | orReg | andReg | xorReg | rnd | ldVxDt
  | addReg | subReg | shr | subnReg | shl => exact ⟨_, rfl, .inl ⟨rfl, rfl⟩⟩

/-- The status after an instruction of a Running core is Faulted with the code of `instrFault`, if that is one. -/
theorem exec_faulted_iff (i : Instr) (hs : s.status = .running) :
    ∃ t, exec i s = .next t ∧
      ∀ f, (∃ r, t.status = .faulted r ∧ r.code = f) ↔ s.instrFault i = some f := by
  obtain ⟨t, ht, ⟨hnone, hst⟩ | ⟨hnone, x, -, hst⟩ | ⟨g, d, hsome, rfl⟩⟩ := exec_ends i s
  · exact ⟨t, ht, by simp [hnone, hst, hs]⟩
  · exact ⟨t, ht, by simp [hnone, hst]⟩
  · exact ⟨_, ht, by simp [hsome]⟩

/-! ### The end of a call and of a step -/

/-- How a `cycle` call of a Running core that has not stayed Running has ended: Faulted by the call itself, by the fetch
or by the instruction, each time by `raise` alone, or waiting by Fx0A. -/
def stopsIn (s t : State) (c : HostCall) : Prop :=
  t = s.raise (FaultRecord.mk .hostTimeRegression s.pc none (some c.now)) ∨
  t = (s.callPrelude c).raise (FaultRecord.mk .fetchOutOfRange s.pc none none) ∨
  (∃ x, decodeWord s.fetchWord = .ldVxK x ∧ t.status = .waitingKey x c.now) ∨
  ∃ f d, s.pc.toNat ≤ 0xFFE ∧ s.instrFault (decodeWord s.fetchWord) = some f ∧
    t = (s.callPrelude c).fetched.raiseInstr f d

/-- A call that did not stay Running is not completed: its instruction marker stays (R150). -/
theorem State.endCall_of_not_running {now : Nat} (h : s.status ≠ .running) : s.endCall now = s :=
  if_neg h

theorem instrFault_fetched_callPrelude (i : Instr) :
    (s.callPrelude c).fetched.instrFault i = s.instrFault i :=
  State.instrFault_congr (s.callPrelude_i c) (s.callPrelude_sp c) i

theorem stopsIn_of_instruction {u : State} (hs : s.status = .running)
    (h : (s.callPrelude c).instruction = .next u) (hstop : u.status ≠ .running) : stopsIn s u c := by
  obtain ⟨-, rfl⟩ | ⟨hpc, hexec⟩ := State.instruction_cases h
  · exact .inr (.inl (by rw [State.callPrelude_pc]))
  rw [State.fetchWord_callPrelude] at hexec
  rw [State.callPrelude_pc] at hpc
  obtain ⟨v, hv, hends⟩ := exec_ends (decodeWord s.fetchWord) (s.callPrelude c).fetched
  obtain rfl : v = u := by simpa [hv] using hexec
  obtain ⟨-, hst⟩ | ⟨-, x, hx, hst⟩ | ⟨f, d, hf, rfl⟩ := hends
  · exact absurd (by simp [hst, hs]) hstop
  · exact .inr (.inr (.inl ⟨x, hx, by simpa using hst⟩))
  · exact .inr (.inr (.inr ⟨f, d, hpc, by rwa [instrFault_fetched_callPrelude] at hf, rfl⟩))

theorem stopsIn_of_cycle (hs : s.status = .running) (h : s.cycle c = .next t)
    (hstop : t.status ≠ .running) : stopsIn s t c := by
  obtain ⟨-, rfl⟩ | ⟨-, -, rfl⟩ | ⟨-, -, u, hu, rfl⟩ := State.cycle_cases h
  · exact .inl rfl
  · exact absurd (by simp [hs]) hstop
  · rw [State.endCall_status] at hstop
    rw [State.endCall_of_not_running hstop]
    exact stopsIn_of_instruction hs hu hstop

/-- Taking an event moves the host's side only (log 5). -/
theorem State.tookEvent_eq (s : State) : ∃ es n, s.tookEvent = { s with host := es, turn := n } := by
  unfold State.tookEvent
  split
  · exact ⟨_, _, rfl⟩
  · exact ⟨_, _, rfl⟩

/-- A Running core stops running in a call of the host only. -/
theorem stopsIn_of_step (hs : s.status = .running) (h : step s = .next t)
    (hstop : t.status ≠ .running) :
    ∃ c, s.nextEvent = some (.cycle c) ∧ stopsIn s.tookEvent t c := by
  obtain ⟨-, rfl⟩ | ⟨c, -, he, hc⟩ | ⟨x, u, k, hw, -⟩ | ⟨x, u, hw, -⟩ := step_cases h
  · exact absurd (by simp [hs]) hstop
  · exact ⟨c, he, stopsIn_of_cycle (by simp [hs]) hc hstop⟩
  · simp [hs] at hw
  · simp [hs] at hw

end

end Sys2Proof.Machine
end

section
/-! SUPPORT. The key wait (spec/45_timers_input.md R283, R284, spec/60_exceptions.md R323): what a step in it leaves and
how it ends. -/

namespace Sys2Proof.Machine

/-- What a step in a wait for the register x leaves, the one that ends it included. -/
def keepsInWait (s t : State) (x : Nibble) : Prop :=
  t.pc = s.pc ∧ t.i = s.i ∧ keepsMemory s t ∧ keepsDisplay s t ∧ keepsStack s t ∧ keepsTimers s t ∧
  keepsOutputs s t ∧ t.lastTimerTick = s.lastTimerTick ∧ keepsRegsBut s t (· = x)

/-- The three ways a step in a wait ends: by a key-down, by a termination, or waiting on. -/
def endsWait (s t : State) : Prop :=
  (t.status = .running ∧ ∃ k, s.nextEvent = some (.keyDown k)) ∨
  (t.status = .terminated ∧ s.nextEvent = some .terminate ∧ keepsRegs s t ∧
    t.lastInstructionTick = s.lastInstructionTick) ∨
  (t.status = s.status ∧ keepsRegs s t ∧ t.lastInstructionTick = s.lastInstructionTick)

section

variable {s t : State} {x : Nibble} {u : Nat}

/-- An update of the general registers, the status, the instruction marker and the host's side, to any values. -/
theorem keepsInWait_update {v : Vector Byte 16} (hv : keepsRegsBut s { s with v := v } (· = x))
    (status lastInstructionTick host turn) :
    keepsInWait s { s with
      v := v, status := status, lastInstructionTick := lastInstructionTick, host := host,
      turn := turn } x :=
  ⟨rfl, rfl, keepsMemory_of_eq rfl rfl, fun _ _ => rfl, ⟨rfl, fun _ => rfl⟩, ⟨rfl, rfl⟩,
    ⟨rfl, rfl, rfl⟩, rfl, hv⟩

/-- The step of a waiting core, by the host's next event (R284, log 5, log 6). -/
theorem step_of_waitingKey (hs : s.status = .waitingKey x u) :
    (∃ k, s.nextEvent = some (.keyDown k) ∧ step s = .next (s.tookEvent.keyRelease x u k)) ∨
    (s.nextEvent = some .terminate ∧ step s = .next s.tookEvent.terminate) ∨
    step s = .next s.tookEvent := by
  have hwait : s.tookEvent.status = .waitingKey x u := s.tookEvent_status.trans hs
  cases he : s.nextEvent with
  | none => exact .inr (.inr (by simp only [step, State.hostTurn, hs, he]))
  | some e =>
    have hstep : step s = s.tookEvent.accept e := by simp only [step, State.hostTurn, hs, he]
    cases e with
    | cycle c => exact .inr (.inr (by simp only [hstep, State.accept, hwait]))
    | keyDown k => exact .inl ⟨k, rfl, by simp only [hstep, State.accept, hwait]⟩
    | terminate => exact .inr (.inl ⟨rfl, by simp only [hstep, State.accept, hwait]⟩)

theorem step_in_wait (hs : s.status = .waitingKey x u) :
    ∃ t, step s = .next t ∧ keepsInWait s t x ∧ endsWait s t := by
  obtain ⟨es, n, he⟩ := s.tookEvent_eq
  obtain ⟨k, hk, h⟩ | ⟨hk, h⟩ | h := step_of_waitingKey hs <;> rw [he] at h
  · exact ⟨_, h, keepsInWait_update (fun _ hj => s.reg_setReg_ne _ hj) .., .inl ⟨rfl, k, hk⟩⟩
  · exact ⟨_, h, keepsInWait_update (fun _ _ => rfl) .., .inr (.inl ⟨rfl, hk, fun _ => rfl, rfl⟩)⟩
  · exact ⟨_, h, keepsInWait_update (fun _ _ => rfl) .., .inr (.inr ⟨rfl, fun _ => rfl, rfl⟩)⟩

/-- Of the ways a Running core stops running, the wait is by Fx0A of the register waited for. -/
theorem decodeWord_of_wait (hs : s.status = .running) (h : step s = .next t)
    (ht : t.status = .waitingKey x u) : decodeWord s.fetchWord = .ldVxK x := by
  obtain ⟨c, -, hstop⟩ := stopsIn_of_step hs h (by simp [ht])
  obtain rfl | rfl | ⟨y, hy, hst⟩ | ⟨f, d, -, -, rfl⟩ := hstop
  · simp at ht
  · simp at ht
  · obtain ⟨rfl, -⟩ : y = x ∧ c.now = u := by simpa [hst] using ht
    rwa [State.fetchWord_congr s.tookEvent_pc s.tookEvent_config s.tookEvent_mem] at hy
  · simp at ht

end

/-- Settles O32: a step in the wait is by the host's event, and of the ways in which a Running core stops running only
Fx0A waits. -/
theorem waitIsInert : Obligations.WaitIsInert := by
  unfold Obligations.WaitIsInert
  refine ⟨fun s x u hs => ?_, fun s t x u hs h ht => decodeWord_of_wait hs h ht⟩
  obtain ⟨t, ht, hkeeps, hends⟩ := step_in_wait hs
  obtain ⟨hpc, hi, hmem, hdisp, hstack, htimers, houtputs, htick, hregs⟩ := hkeeps
  exact ⟨t, ht, hpc, hi, hmem, hdisp, hstack, htimers, houtputs, htick, hregs, hends⟩

end Sys2Proof.Machine
end

section
/-! SUPPORT. The fault of a call (spec/60_exceptions.md R312 to R315): by which code, and with what left. -/

namespace Sys2Proof.Machine

/-- What R313 and R314 say of a step from `s` to `t` that takes the fault `r` in the call `c`. -/
def faultsPrecisely (s t : State) (r : FaultRecord) (c : HostCall) : Prop :=
  keepsRegs s t ∧ keepsMemory s t ∧ keepsDisplay s t ∧ keepsStack s t ∧ t.i = s.i ∧ r.pc = s.pc ∧
  t.lastInstructionTick = s.lastInstructionTick ∧
  (if r.code = .fetchOutOfRange ∨ r.code = .hostTimeRegression
    then t.pc = s.pc ∧ r.word = none
    else t.pc.toNat = s.pc.toNat + 2 ∧ r.word = some s.fetchWord) ∧
  (if r.code = .hostTimeRegression
    then keepsTimers s t ∧ keepsOutputs s t ∧ t.lastTimerTick = s.lastTimerTick
    else preludeOnly s t c.now)

section

variable {s t : State} {r : FaultRecord} {c : HostCall}

theorem faultsPrecisely_of_regression (s : State) (c : HostCall) (d : Option Nat) :
    faultsPrecisely s (s.raise (FaultRecord.mk .hostTimeRegression s.pc none d))
      (FaultRecord.mk .hostTimeRegression s.pc none d) c := by
  refine ⟨fun _ => rfl, keepsMemory_of_eq rfl rfl, fun _ _ => rfl, ⟨rfl, fun _ => rfl⟩, rfl, rfl, rfl,
    ?_, ?_⟩
  · rw [if_pos (.inr rfl)]
    exact ⟨rfl, rfl⟩
  · rw [if_pos rfl]
    exact ⟨⟨rfl, rfl⟩, ⟨rfl, rfl, rfl⟩, rfl⟩

theorem faultsPrecisely_of_fetch (s : State) (c : HostCall) (d : Option Nat) :
    faultsPrecisely s ((s.callPrelude c).raise (FaultRecord.mk .fetchOutOfRange s.pc none d))
      (FaultRecord.mk .fetchOutOfRange s.pc none d) c := by
  obtain ⟨hregs, hi, hmem, hdisp, hstack⟩ := callPrelude_keeps (s := s) (c := c)
  refine ⟨hregs, hmem, hdisp, hstack, hi, rfl, s.callPrelude_lastInstructionTick c, ?_, ?_⟩
  · rw [if_pos (.inl rfl)]
    exact ⟨s.callPrelude_pc c, rfl⟩
  · rw [if_neg nofun]
    exact preludeOnly_callPrelude (es := s.host)

/-- PC does not wrap: it is at most 0xFFE at a fetch that succeeds. -/
theorem faultsPrecisely_of_instruction {i : Instr} {f : FaultCode} (hf : s.instrFault i = some f)
    (hpc : s.pc.toNat ≤ 0xFFE) (d : Option Nat) :
    faultsPrecisely s ((s.callPrelude c).fetched.raiseInstr f d)
      (FaultRecord.mk f s.pc (some s.fetchWord) d) c := by
  obtain ⟨hregs, hi, hmem, hdisp, hstack⟩ := callPrelude_keeps (s := s) (c := c)
  have hcode := State.instrFault_not_of_fetch_or_call hf
  refine ⟨hregs, hmem, hdisp, hstack, hi, rfl, s.callPrelude_lastInstructionTick c, ?_, ?_⟩
  · rw [if_neg hcode]
    refine ⟨?_, rfl⟩
    simp [BitVec.toNat_add]
    omega
  · rw [if_neg fun h => hcode (.inr h)]
    exact preludeOnly_callPrelude (es := s.host)

theorem faultsPrecisely_of_stopsIn (h : stopsIn s t c) (ht : t.status = .faulted r) :
    faultsPrecisely s t r c := by
  obtain rfl | rfl | ⟨x, -, hst⟩ | ⟨f, d, hpc, hf, rfl⟩ := h
  · obtain rfl := Status.faulted.inj ht
    exact faultsPrecisely_of_regression s c _
  · obtain rfl := Status.faulted.inj ht
    exact faultsPrecisely_of_fetch s c _
  · simp [hst] at ht
  · obtain rfl : FaultRecord.mk f s.pc (some s.fetchWord) d = r := by simpa using ht
    exact faultsPrecisely_of_instruction hf hpc d

/-- The timer gate does not read the host's side. -/
theorem preludeOnly_tookEvent_iff {now : Nat} :
    preludeOnly s.tookEvent t now ↔ preludeOnly s t now := by
  simp [preludeOnly, keepsTimers]

theorem faultsPrecisely_of_tookEvent (h : faultsPrecisely s.tookEvent t r c) :
    faultsPrecisely s t r c := by
  unfold faultsPrecisely at h
  rw [preludeOnly_tookEvent_iff] at h
  obtain ⟨es, n, he⟩ := s.tookEvent_eq
  rw [he] at h
  exact h

end

/-- Settles O50, by the ways of a call in the order of R315: a regressing time, a closed instruction gate, a faulting
fetch, an instruction. -/
theorem faultCodesAndTheirConditions : Obligations.FaultCodesAndTheirConditions := by
  unfold Obligations.FaultCodesAndTheirConditions
  intro s c es hcall
  by_cases htime : timeOk s c
  case neg =>
    have hregress : c.now < s.lastTimerTick ∨ c.now < s.lastInstructionTick := by
      unfold timeOk at htime
      omega
    have hexec : ¬ executesIn s c := fun h => htime h.1
    exact ⟨_, step_of_regression hcall hregress, fun f => by cases f <;> simp [htime, hexec]⟩
  by_cases hexec : executesIn s c
  case neg =>
    exact ⟨_, step_of_closedGate hcall htime hexec, fun f => by
      cases f <;> simp [hcall.1, htime, hexec]⟩
  obtain hpc | hpc := Nat.lt_or_ge 0xFFE s.pc.toNat
  · exact ⟨_, step_of_fetchFault hcall hexec hpc, fun f => by
      cases f <;> simp [htime, hexec, hpc, Nat.not_le.2 hpc]⟩
  · obtain ⟨t, ht, hfault⟩ := exec_faulted_iff (decodeWord s.fetchWord)
      (s := (State.callPrelude { s with host := es } c).fetched) (by simpa using hcall.1)
    have hinstr : (State.callPrelude { s with host := es } c).fetched.instrFault = s.instrFault :=
      funext instrFault_fetched_callPrelude
    refine ⟨t.endCall c.now, by rw [step_of_fetch hcall hexec hpc, ht]; rfl, fun f => ?_⟩
    rw [State.endCall_status, hfault, hinstr]
    cases f with
    | hostTimeRegression =>
      exact iff_of_false (fun h => State.instrFault_not_of_fetch_or_call h (.inr rfl)) (not_not_intro htime)
    | fetchOutOfRange =>
      exact iff_of_false (fun h => State.instrFault_not_of_fetch_or_call h (.inl rfl)) fun h => Nat.not_lt.2 hpc h.2
    | memOutOfRange => simp [State.instrFault_eq_memOutOfRange_iff, hexec, hpc]
    | stackOverflow => simp [State.instrFault_eq_stackOverflow_iff, hexec, hpc]
    | stackUnderflow => simp [State.instrFault_eq_stackUnderflow_iff, hexec, hpc]

/-- Settles O51: a Running core that stops running with a fault has taken it by `raise`, from the state as it was, as
the call's part before its instruction gate left it, or as the fetch left that. -/
theorem faultsArePrecise : Obligations.FaultsArePrecise := by
  unfold Obligations.FaultsArePrecise
  intro s t r hs h ht
  obtain ⟨c, hc, hstop⟩ := stopsIn_of_step hs h (by simp [ht])
  obtain ⟨hregs, hmem, hdisp, hstack, hi, hpc, htick, hrecord, hprelude⟩ :=
    faultsPrecisely_of_tookEvent (faultsPrecisely_of_stopsIn hstop ht)
  exact ⟨hregs, hmem, hdisp, hstack, hi, hpc, htick, hrecord, c, hc, hprelude⟩

end Sys2Proof.Machine
end

section
/-! SUPPORT. The effect of one instruction, said once (spec/40_pipeline.md R132): which part of the state it writes, by
the instruction's kind. What an instruction cannot change, and what it keeps, is read off the eleven kinds. -/

namespace Sys2Proof.Machine

/-- The registers an instruction may write in its own step (R31, R36). -/
def mayWrite (i : Instr) (j : Nibble) : Prop :=
  (∃ nn, i = .ldImm j nn ∨ i = .addImm j nn ∨ i = .rnd j nn) ∨
  (∃ y, i = .ldReg j y ∨ i = .orReg j y ∨ i = .andReg j y ∨ i = .xorReg j y ∨ i = .addReg j y ∨
    i = .subReg j y ∨ i = .shr j y ∨ i = .subnReg j y ∨ i = .shl j y) ∨
  i = .ldVxDt j ∨ (∃ x, i = .ldRegs x ∧ j.toNat ≤ x.toNat) ∨
  (j = 0xF#4 ∧ ((∃ x y, i = .addReg x y ∨ i = .subReg x y ∨ i = .shr x y ∨ i = .subnReg x y ∨
    i = .shl x y) ∨ ∃ x y n, i = .drw x y n))

/-- `Effect s i t`: executing `i` in `s` may leave `t`. Each kind writes the fields it names and no other. -/
inductive Effect (s : State) : Instr → State → Prop where
  | raised {i f d} (hfits : FaultRecord.fits (FaultRecord.mk f s.instrPc (some s.instrWord) d)
      (s.instrPc + 2#16)) : Effect s i (s.raiseInstr f d)
  | registers {i} {v : Vector Byte 16} (hv : keepsRegsBut s { s with v := v } (mayWrite i)) :
      Effect s i { s with v := v }
  | jumped {i} {w : Word} (hw : s.pc.toNat ≤ 0x1000 → w.toNat ≤ 0x10FE) : Effect s i (s.jumpTo w)
  | pushed (nnn : Addr12) (h : s.sp.val < 16) : Effect s (.call nnn) { s with
      pc := zextAddr nnn
      stack := s.stack.set s.sp.val s.pc h
      sp := ⟨s.sp.val + 1, by omega⟩ }
  | popped (h : 0 < s.sp.val) : Effect s .ret { s with
      pc := s.stack[s.sp.val - 1]'(by omega)
      sp := ⟨s.sp.val - 1, by omega⟩ }
  | index {i} {w : Word} (hi : (∃ nnn, i = .ldI nnn) ∨ (∃ x, i = .addI x) ∨ ∃ x, i = .ldF x) :
      Effect s i (s.setI w)
  | timers {i} (dt st : Byte) : Effect s i { s with dt := dt, st := st }
  | stored {i} {m : Memory} (hm : s.mem.wf s.config = true → Memory.wf s.config m = true) :
      Effect s i { s with mem := m }
  | cleared : Effect s .cls { s with disp := Display.clear, clearRequested := true }
  | drawn (x y n : Nibble) : Effect s (.drw x y n) (s.drawSprite x y n)
  | waits (x : Nibble) : Effect s (.ldVxK x) { s with status := .waitingKey x s.call.now }

section

variable {s t : State} {i : Instr}

/-! ### The kinds, for the shared operations -/

theorem effect_setReg {x : Nibble} (b : Byte) (hx : mayWrite i x) : Effect s i (s.setReg x b) :=
  .registers fun _ hj => s.reg_setReg_ne b fun e => hj (e ▸ hx)

theorem effect_setResultAndFlag {x : Nibble} (r f : Byte) (hx : mayWrite i x) (hvf : mayWrite i vf) :
    Effect s i (s.setResultAndFlag x r f) := by
  obtain ⟨hregs, -⟩ := writesRegsOnly_setResultAndFlag s x r f
  refine .registers fun j hj => hregs j ?_
  rintro (rfl | rfl)
  · exact hj hx
  · exact hj hvf

theorem writesRegsOnly_loadRegs (base : Nat) (x : Nibble) :
    writesRegsOnly s (s.loadRegs base (x.toNat + 1)) (fun j => j.toNat ≤ x.toNat) := by
  have hregs : keepsRegsBut s (s.loadRegs base (x.toNat + 1)) (fun j => j.toNat ≤ x.toNat) := by
    intro j hj
    rw [State.reg_loadRegs s base _ x.isLt, if_neg (by omega)]
  rw [State.loadRegs_eq]
  exact writesRegsOnly_update s _ hregs

theorem effect_loadRegs (base : Nat) (x : Nibble) :
    Effect s (.ldRegs x) (s.loadRegs base (x.toNat + 1)) := by
  obtain ⟨hregs, -⟩ := writesRegsOnly_loadRegs (s := s) base x
  rw [State.loadRegs_eq] at hregs ⊢
  exact .registers fun j hj => hregs j fun hle => hj (.inr (.inr (.inr (.inl ⟨x, rfl, hle⟩))))

theorem effect_storeBytes (base : Nat) (xs : List Byte) : Effect s i (s.storeBytes base xs) := by
  rw [State.storeBytes_eq]
  exact .stored fun h => State.storeBytes_wf h base xs

theorem effect_skipIf (b : Bool) : Effect s i (s.skipIf b) := by
  rw [State.skipIf_eq_jumpTo]
  refine .jumped fun hpc => ?_
  rw [← State.skipIf_pc, State.skipIf_pc_toNat]
  split <;> omega

/-- A checked access has its effect or raises, with an address above 0xFFF (R74, R313). -/
theorem effect_checked (base len : Nat) (h : Effect s i t) : Effect s i (s.checked base len t) := by
  obtain ⟨he, -⟩ | ⟨a, hr, he⟩ := s.checked_cases t base len
  · rwa [he]
  · have ha : 0xFFF < a := by
      rw [rangeFault_eq] at hr
      split at hr
      · cases hr; omega
      · cases hr
    rw [he]
    exact .raised ⟨rfl, rfl, a, rfl, ha⟩

theorem exec_ret_effect (s : State) : ∃ t, exec .ret s = .next t ∧ Effect s .ret t := by
  obtain h | h := Nat.eq_zero_or_pos s.sp.val
  · exact ⟨_, exec_ret_empty s h, .raised ⟨rfl, rfl, rfl⟩⟩
  · exact ⟨_, exec_ret_pop s h, .popped h⟩

theorem exec_call_effect (s : State) (nnn : Addr12) :
    ∃ t, exec (.call nnn) s = .next t ∧ Effect s (.call nnn) t := by
  obtain h | h : s.sp.val < 16 ∨ s.sp.val = 16 := by omega
  · exact ⟨_, exec_call_push s nnn h, .pushed nnn h⟩
  · exact ⟨_, exec_call_full s nnn h, .raised ⟨rfl, rfl, rfl⟩⟩

/-- nnn plus V0 does not wrap: it is at most 0xFFF + 0xFF (R189). -/
theorem jpV0_target_toNat (nnn : Addr12) (b : Byte) :
    (zextAddr nnn + zextByte b).toNat = nnn.toNat + b.toNat := by
  rw [BitVec.toNat_add, zextAddr_toNat, zextByte_toNat]
  exact Nat.mod_eq_of_lt (by omega)

/-- Every instruction answers a next state, by one of the kinds. -/
theorem exec_effect (i : Instr) (s : State) : ∃ t, exec i s = .next t ∧ Effect s i t := by
  cases i with
  | cls => exact ⟨_, exec_cls s, .cleared⟩
  | ret => exact exec_ret_effect s
  | call nnn => exact exec_call_effect s nnn
  | jp nnn =>
    exact ⟨_, exec_jp s nnn, .jumped fun _ => by rw [zextAddr_toNat]; omega⟩
  | jpV0 nnn =>
    exact ⟨_, exec_jpV0 s nnn, .jumped fun _ => by rw [jpV0_target_toNat]; omega⟩
  | nop0 | nop => exact ⟨_, rfl, .jumped (w := s.pc) fun h => by omega⟩
  | seImm | sneImm | seReg | sneReg | skp | sknp => exact ⟨_, rfl, effect_skipIf _⟩
  | ldImm | addImm | ldReg | orReg | andReg | xorReg | rnd | ldVxDt =>
    exact ⟨_, rfl, effect_setReg _ (by simp [mayWrite])⟩
  | addReg | subReg | shr | subnReg | shl =>
    exact ⟨_, rfl, effect_setResultAndFlag _ _ (by simp [mayWrite]) (by simp [mayWrite])⟩
  | ldI | addI | ldF => exact ⟨_, rfl, .index (by simp)⟩
  | ldDtVx | ldStVx => exact ⟨_, rfl, .timers _ _⟩
  | ldVxK x => exact ⟨_, exec_ldVxK s x, .waits x⟩
  | drw x y n => exact ⟨_, rfl, effect_checked _ _ (.drawn x y n)⟩
  | ldB | stRegs => exact ⟨_, rfl, effect_checked _ _ (effect_storeBytes _ _)⟩
  | ldRegs x => exact ⟨_, rfl, effect_checked _ _ (effect_loadRegs _ x)⟩

/-- A draw writes VF only among the registers (R161). -/
theorem reg_drawSprite_ne (x y n : Nibble) {j : Nibble} (hj : j ≠ vf) :
    (s.drawSprite x y n).reg j = s.reg j :=
  s.reg_setReg_ne _ hj

end

/-! ### The statements: what the kinds do not write -/

/-- Settles O42: of the kinds only the index writes reach I. -/
theorem onlyIndexInstructionsChangeI : Obligations.OnlyIndexInstructionsChangeI := by
  unfold Obligations.OnlyIndexInstructionsChangeI
  intro i s
  obtain ⟨t, ht, heffect⟩ := exec_effect i s
  refine ⟨t, ht, ?_⟩
  cases heffect with
  | index hi => exact .inr hi
  | _ => exact .inl rfl

/-- Settles O43: of the kinds only the push reaches a slot, and only the push and the pop reach SP. -/
theorem onlyCallAndReturnTouchTheStack : Obligations.OnlyCallAndReturnTouchTheStack := by
  unfold Obligations.OnlyCallAndReturnTouchTheStack
  intro i s
  obtain ⟨t, ht, heffect⟩ := exec_effect i s
  refine ⟨t, ht, ?_⟩
  cases heffect with
  | pushed nnn => exact ⟨.inr ⟨nnn, rfl⟩, .inr (.inl ⟨nnn, rfl⟩)⟩
  | popped => exact ⟨.inl fun _ => rfl, .inr (.inr rfl)⟩
  | _ => exact ⟨.inl fun _ => rfl, .inl rfl⟩

/-- Settles O44: of the kinds only the clear and the draw reach the display. -/
theorem onlyClearAndDrawChangeTheDisplay : Obligations.OnlyClearAndDrawChangeTheDisplay := by
  unfold Obligations.OnlyClearAndDrawChangeTheDisplay
  intro i s
  obtain ⟨t, ht, heffect⟩ := exec_effect i s
  refine ⟨t, ht, ?_⟩
  cases heffect with
  | cleared => exact .inr (.inl rfl)
  | drawn x y n => exact .inr (.inr ⟨x, y, n, rfl⟩)
  | _ => exact .inl rfl

/-- Settles O46: of the kinds only the register writes and the draw reach a register, and of those only the listed
ones. -/
theorem registerWriters : Obligations.RegisterWriters := by
  unfold Obligations.RegisterWriters
  intro i s j
  obtain ⟨t, ht, heffect⟩ := exec_effect i s
  refine ⟨t, ht, ?_⟩
  change t.reg j = s.reg j ∨ mayWrite i j
  by_cases hj : mayWrite i j
  · exact .inr hj
  refine .inl ?_
  cases heffect with
  | registers hv => exact hv j hj
  | drawn x y n => exact reg_drawSprite_ne x y n fun e => hj (by simp [mayWrite, e])
  | _ => rfl

end Sys2Proof.Machine
end

section
/-! SUPPORT. The invariant (Safety.lean) under one instruction, one call and one host's turn. -/

namespace Sys2Proof.Machine

/-- A state in which a call executes its instruction: the invariant, and what the gates, the call's part before them
and the fetch have made sure of (R130, R131, R155 to R157). -/
structure State.Executing (s : State) : Prop where
  inv : s.Inv
  running : s.status = .running
  pc_le : s.pc.toNat ≤ 0x1000
  pc_eq : s.pc = s.instrPc + 2#16
  clear_reset : s.clearRequested = false
  dirty_reset : s.displayDirty = false
  call_time : s.lastTimerTick ≤ s.call.now ∧
    s.lastInstructionTick + Config.instructionPeriod s.config ≤ s.call.now

section

variable {s t : State} {c : HostCall}

/-! ### Updates of the status -/

theorem State.Inv.raise (h : s.Inv) {r : FaultRecord} (hr : r.fits s.pc) : (s.raise r).Inv :=
  { h with
    wait_time := fun _ _ hs => by simp at hs
    record_fits := fun q hq => by
      obtain rfl : r = q := by simpa using hq
      exact hr }

/-- With the status Running the two clauses about the other statuses ask nothing. -/
theorem State.Inv.of_running (hs : t.status = .running) (hconfig : t.config.wf = true)
    (hmem : Memory.wf t.config t.mem = true) (hpc : t.pc.toNat ≤ 0x10FE)
    (hstack : ∀ k (h : k < 16), t.stack[k].toNat ≤ 0x1000)
    (hout : ¬ (t.clearRequested = true ∧ t.displayDirty = true)) : t.Inv where
  config_wf := hconfig
  mem_wf := hmem
  pc_le := hpc
  stack_le := hstack
  one_output := hout
  wait_time _ _ h := by simp [hs] at h
  record_fits _ h := by simp [hs] at h

/-- What control flow writes: PC, SP and the stack. -/
theorem State.Inv.moved (h : s.Inv) (hs : s.status = .running) {pc : Word} {stack : Vector Word 16}
    {sp : Fin 17} (hpc : pc.toNat ≤ 0x10FE) (hstack : ∀ k (hk : k < 16), stack[k].toNat ≤ 0x1000) :
    State.Inv { s with pc := pc, stack := stack, sp := sp } :=
  .of_running hs h.config_wf h.mem_wf hpc hstack h.one_output

theorem State.Inv.keyRelease (h : s.Inv) (x : Nibble) (u : Nat) (k : Nibble) :
    (s.keyRelease x u k).Inv :=
  .of_running rfl h.config_wf h.mem_wf h.pc_le h.stack_le h.one_output

theorem State.Inv.terminate (h : s.Inv) : s.terminate.Inv :=
  { h with
    wait_time := fun _ _ hs => by simp at hs
    record_fits := fun _ hs => by simp at hs }

theorem State.Inv.tookEvent (h : s.Inv) : s.tookEvent.Inv := by
  obtain ⟨es, n, he⟩ := s.tookEvent_eq
  rw [he]
  exact { h with }

/-! ### One instruction -/

/-- The stack after a push: the new slot holds PC, which is at most 0x1000 once the fetch has advanced it. -/
theorem stack_le_push (h : ∀ k (hk : k < 16), s.stack[k].toNat ≤ 0x1000) (hpc : s.pc.toNat ≤ 0x1000)
    (hsp : s.sp.val < 16) (k : Nat) (hk : k < 16) :
    ((s.stack.set s.sp.val s.pc hsp)[k]).toNat ≤ 0x1000 := by
  rw [Vector.getElem_set]
  split
  · exact hpc
  · exact h k hk

/-- Every kind of effect keeps the invariant. -/
theorem State.Executing.inv_of_effect {i : Instr} (h : s.Executing) (he : Effect s i t) : t.Inv := by
  have hinv := h.inv
  cases he with
  | raised hfits => exact hinv.raise (h.pc_eq ▸ hfits)
  | registers | index | timers => exact { hinv with }
  | jumped hw => exact hinv.moved h.running (hw h.pc_le) hinv.stack_le
  | pushed nnn hsp =>
    have hpc : (zextAddr nnn).toNat ≤ 0x10FE := by rw [zextAddr_toNat]; omega
    exact hinv.moved h.running hpc (stack_le_push hinv.stack_le h.pc_le hsp)
  | popped hsp => exact hinv.moved h.running ((hinv.stack_le _ _).trans (by decide)) hinv.stack_le
  | stored hm => exact { hinv with mem_wf := hm hinv.mem_wf }
  | cleared => exact { hinv with one_output := fun ⟨_, hd⟩ => by simp [h.dirty_reset] at hd }
  | drawn => exact { hinv with one_output := fun ⟨hc, _⟩ => by simp [h.clear_reset] at hc }
  | waits x =>
    refine { hinv with wait_time := fun y u hu => ?_, record_fits := fun _ hr => by simp at hr }
    obtain ⟨-, rfl⟩ : x = y ∧ s.call.now = u := by simpa using hu
    exact h.call_time

/-! ### One call -/

theorem State.Inv.callPrelude (h : s.Inv) (hs : s.status = .running) (c : HostCall) :
    (s.callPrelude c).Inv :=
  .of_running (by simpa using hs) (by simpa using h.config_wf) (by simpa using h.mem_wf)
    (by simpa using h.pc_le) (by simpa using h.stack_le) (by simp)

theorem State.Inv.executing (h : s.Inv) (hs : s.status = .running) (hpc : s.pc.toNat ≤ 0xFFE)
    (htime : s.timeRegresses c.now = false) (hgate : s.gateOpen c.now = true) :
    (s.callPrelude c).fetched.Executing := by
  have hpast : (s.pc + 2#16).toNat = s.pc.toNat + 2 := by
    rw [BitVec.toNat_add]
    exact Nat.mod_eq_of_lt (show s.pc.toNat + 2 < 65536 by omega)
  have htime := of_decide_eq_false htime
  have hgate := of_decide_eq_true hgate
  have hnext : (s.callPrelude c).fetched.pc.toNat ≤ 0x1000 := by
    rw [State.fetched_pc, State.callPrelude_pc, hpast]
    omega
  have hrun : (s.callPrelude c).fetched.status = .running := by simpa using hs
  have hprelude := h.callPrelude hs c
  have hinv : (s.callPrelude c).fetched.Inv :=
    .of_running hrun hprelude.config_wf hprelude.mem_wf (by omega) hprelude.stack_le hprelude.one_output
  refine ⟨hinv, hrun, hnext, rfl, by simp, by simp, ?_, ?_⟩
  · simp only [State.fetched_lastTimerTick, State.callPrelude_lastTimerTick, State.fetched_call,
      State.callPrelude_call]
    split <;> omega
  · simp only [State.fetched_lastInstructionTick, State.callPrelude_lastInstructionTick,
      State.fetched_config, State.callPrelude_config, State.fetched_call, State.callPrelude_call]
    omega

theorem State.Inv.endCall (h : s.Inv) (now : Nat) : (s.endCall now).Inv := by
  by_cases hs : s.status = .running
  · rw [State.endCall_of_running hs]
    exact .of_running hs h.config_wf h.mem_wf h.pc_le h.stack_le h.one_output
  · rwa [State.endCall_of_not_running hs]

theorem State.Inv.cycle (h : s.Inv) (hs : s.status = .running) (hc : s.cycle c = .next t) : t.Inv := by
  obtain ⟨-, rfl⟩ | ⟨-, -, rfl⟩ | ⟨htime, hgate, u, hu, rfl⟩ := State.cycle_cases hc
  · exact h.raise ⟨rfl, rfl, rfl⟩
  · exact h.callPrelude hs c
  refine State.Inv.endCall ?_ c.now
  obtain ⟨hpc, rfl⟩ | ⟨hpc, hexec⟩ := State.instruction_cases hu
  · exact (h.callPrelude hs c).raise ⟨hpc, rfl, rfl, rfl⟩
  · obtain ⟨v, hv, heffect⟩ := exec_effect _ (s.callPrelude c).fetched
    obtain rfl : v = u := Host.Outcome.next.inj (hv.symm.trans hexec)
    rw [State.callPrelude_pc] at hpc
    exact (h.executing hs hpc htime hgate).inv_of_effect heffect

end

/-- Settles O58, by the host's transaction: none, a call, a key-down or a termination. -/
theorem everyStepKeepsTheInvariant : Obligations.EveryStepKeepsTheInvariant := by
  unfold Obligations.EveryStepKeepsTheInvariant
  intro s t h hstep
  obtain ⟨-, rfl⟩ | ⟨c, hs, -, hc⟩ | ⟨x, u, k, -, -, rfl⟩ | ⟨x, u, -, -, rfl⟩ := step_cases hstep
  · exact h.tookEvent
  · exact h.tookEvent.cycle (s.tookEvent_status.trans hs) hc
  · exact h.tookEvent.keyRelease x u k
  · exact h.tookEvent.terminate

end Sys2Proof.Machine
end

section
/-! SUPPORT. The rest of a `cycle` call and of a step (spec/40_pipeline.md R150 to R158): the configuration, beep_active
and the timers, the ended machine and the host's turn. -/

namespace Sys2Proof.Machine

section

variable {s t : State} {c : HostCall} {es : List HostEvent}

/-! ### The configuration -/

theorem State.instruction_config (h : s.instruction = .next t) : t.config = s.config := by
  obtain ⟨-, rfl⟩ | ⟨-, hexec⟩ := State.instruction_cases h
  · rfl
  obtain ⟨u, hu, ⟨-, -, hconfig, -⟩, -⟩ :=
    onlyTwoInstructionsWriteTimers (decodeWord s.fetchWord) s.fetched
  obtain rfl : u = t := Host.Outcome.next.inj (hu.symm.trans hexec)
  exact hconfig

theorem State.cycle_config (h : s.cycle c = .next t) : t.config = s.config := by
  obtain ⟨-, rfl⟩ | ⟨-, -, rfl⟩ | ⟨-, -, u, hu, rfl⟩ := State.cycle_cases h
  · rfl
  · exact s.callPrelude_config c
  · rw [State.endCall_config, State.instruction_config hu, State.callPrelude_config]

/-! ### The timer gate and beep_active -/

/-- A timer stops at 0, as the subtraction of naturals does (R153). -/
theorem countDown_toNat (b : Byte) : (countDown b).toNat = b.toNat - 1 := by
  unfold countDown
  split
  · next h => rw [h]; rfl
  · next h =>
    have hpos : b.toNat ≠ 0 := fun e => h (BitVec.eq_of_toNat_eq e)
    have hlt : b.toNat < 256 := b.isLt
    rw [BitVec.toNat_sub, BitVec.toNat_ofNat]
    omega

/-- The timer gate of a call in time, with the elapsed time as a sum. -/
theorem timerGate_opens_iff (h : timeOk s c) :
    timerPeriod ≤ c.now - s.lastTimerTick ↔ s.lastTimerTick + 16666666 ≤ c.now := by
  obtain ⟨htimer, -⟩ := h
  unfold timerPeriod
  omega

/-- What the timer gate of a call in time does, as numbers (R152, R153). -/
theorem callPrelude_timers (h : timeOk s c) :
    if s.lastTimerTick + 16666666 ≤ c.now
      then (s.callPrelude c).dt.toNat = s.dt.toNat - 1 ∧ (s.callPrelude c).st.toNat = s.st.toNat - 1 ∧
        (s.callPrelude c).lastTimerTick = c.now
      else (s.callPrelude c).dt = s.dt ∧ (s.callPrelude c).st = s.st ∧
        (s.callPrelude c).lastTimerTick = s.lastTimerTick := by
  simp only [State.callPrelude_dt, State.callPrelude_st, State.callPrelude_lastTimerTick,
    timerGate_opens_iff h]
  split <;> simp [countDown_toNat]

/-- beep_active of a call in time follows ST as the timer gate leaves it (R154). -/
theorem callPrelude_beepActive_iff (h : timeOk s c) :
    (s.callPrelude c).beepActive = true ↔
      0 < (if s.lastTimerTick + 16666666 ≤ c.now then s.st.toNat - 1 else s.st.toNat) := by
  have hzero (b : Byte) : (b != 0#8) = true ↔ 0 < b.toNat := by
    simp [Nat.pos_iff_ne_zero, ← BitVec.toNat_inj]
  rw [State.callPrelude_beepActive, hzero, apply_ite BitVec.toNat, countDown_toNat]
  simp only [timerGate_opens_iff h]

/-- No instruction and no fault moves beep_active (D13). -/
theorem State.instruction_beepActive (s : State) :
    ∃ t, s.instruction = .next t ∧ t.beepActive = s.beepActive := by
  obtain hpc | hpc := Nat.lt_or_ge 0xFFE s.pc.toNat
  · exact ⟨_, State.instruction_of_fault hpc, rfl⟩
  obtain ⟨t, ht, -, hbeep, -⟩ :=
    onlyTwoInstructionsWriteTimers (decodeWord s.fetchWord) s.fetched
  exact ⟨t, (State.instruction_of_fetch hpc).trans ht, hbeep⟩

theorem State.cycle_beepActive (h : timeOk s c) :
    ∃ t, s.cycle c = .next t ∧ t.beepActive = (s.callPrelude c).beepActive := by
  by_cases hexec : executesIn s c
  · obtain ⟨t, ht, hbeep⟩ := (s.callPrelude c).instruction_beepActive
    refine ⟨t.endCall c.now, ?_, by rw [State.endCall_beepActive, hbeep]⟩
    rw [State.cycle_of_executesIn hexec, ht]
    rfl
  · exact ⟨_, State.cycle_of_closedGate h hexec, rfl⟩

/-! ### The host's turn -/

/-- A core that has not ended takes the host's next event (log 5). -/
theorem step_of_event {e : HostEvent} (hf : ∀ r, s.status ≠ .faulted r) (ht : s.status ≠ .terminated)
    (he : s.nextEvent = some e) : step s = s.tookEvent.accept e := by
  unfold step State.hostTurn
  cases hs : s.status with
  | faulted r => exact absurd hs (hf r)
  | terminated => exact absurd hs ht
  | running | waitingKey => simp only [he]

/-- At a turn with no event the host's side moves on and nothing else (log 5). -/
theorem step_of_no_event (hf : ∀ r, s.status ≠ .faulted r) (ht : s.status ≠ .terminated)
    (he : s.nextEvent = none) : step s = .next s.tookEvent := by
  unfold step State.hostTurn
  cases hs : s.status with
  | faulted r => exact absurd hs (hf r)
  | terminated => exact absurd hs ht
  | running | waitingKey => simp only [he]

theorem step_of_listed {e : HostEvent} (hf : ∀ r, s.status ≠ .faulted r)
    (ht : s.status ≠ .terminated) (hh : s.host = e :: es) :
    step s = State.accept { s with host := es } e := by
  rw [step_of_event hf ht (e := e) (by simp only [State.nextEvent, hh])]
  simp only [State.tookEvent, hh]

end

/-! ### The statements -/

/-- Settles O59: the host's turn, a call and every kind of effect leave the configuration. -/
theorem configurationNeverChanges : Obligations.ConfigurationNeverChanges := by
  unfold Obligations.ConfigurationNeverChanges
  intro s t h
  obtain ⟨-, rfl⟩ | ⟨c, -, -, hc⟩ | ⟨x, u, k, -, -, rfl⟩ | ⟨x, u, -, -, rfl⟩ := step_cases h
  · exact s.tookEvent_config
  · exact (State.cycle_config hc).trans s.tookEvent_config
  · exact s.tookEvent_config
  · exact s.tookEvent_config

/-- Settles O37: behind the closed gate the call ends with its part before the gate. -/
theorem closedGateOnlyRunsTheTimers : Obligations.ClosedGateOnlyRunsTheTimers := by
  unfold Obligations.ClosedGateOnlyRunsTheTimers
  intro s c es hcall htime hclosed
  have hnot : ¬ executesIn s c := fun h => Nat.not_le.2 hclosed h.2
  obtain ⟨hregs, hi, hmem, hdisp, hstack⟩ :=
    callPrelude_keeps (s := { s with host := es }) (c := c)
  obtain ⟨-, -, hclear, hdirty, hbeep⟩ := preludeOnly_callPrelude (s := s) (c := c) (es := es)
  have htimers := callPrelude_timers (s := { s with host := es }) htime
  exact ⟨_, step_of_closedGate hcall htime hnot, htimers, hbeep, hclear, hdirty,
    State.callPrelude_lastInstructionTick _ c, State.callPrelude_pc _ c, hi,
    (State.callPrelude_status _ c).trans hcall.1, hregs, hmem, hdisp, hstack⟩

/-- Settles O38: the call sets beep_active before its instruction gate, and nothing after that moves it. -/
theorem beepIsSetAfterTheTimerGate : Obligations.BeepIsSetAfterTheTimerGate := by
  unfold Obligations.BeepIsSetAfterTheTimerGate
  intro s c es hcall htime
  obtain ⟨t, ht, hbeep⟩ := State.cycle_beepActive (s := { s with host := es }) htime
  refine ⟨t, (step_of_calledWith hcall).trans ht, ?_⟩
  rw [hbeep]
  exact callPrelude_beepActive_iff (s := { s with host := es }) htime

/-- Settles O34: the word fetched is the one of the two bytes, and the prelude leaves both. -/
theorem stepRunsTheDecodedInstruction : Obligations.StepRunsTheDecodedInstruction := by
  unfold Obligations.StepRunsTheDecodedInstruction
  intro s c es i hcall hexec hpc hdecode
  obtain rfl : decodeWord s.fetchWord = i := by
    simpa [decode, State.fetchWord] using hdecode
  exact step_of_fetch hcall hexec hpc

/-- Settles O52, by the status of the host's turn. -/
theorem endedMachinesDoNotStep : Obligations.EndedMachinesDoNotStep := by
  unfold Obligations.EndedMachinesDoNotStep
  exact ⟨fun s r hs => by simp only [step, State.hostTurn, hs],
    fun s hs => by simp only [step, State.hostTurn, hs]⟩

/-- Settles O53: a free turn takes the event as it would be taken if listed, and an event out of place is used up. -/
theorem hostTurnsDriveTheCore : Obligations.HostTurnsDriveTheCore := by
  unfold Obligations.HostTurnsDriveTheCore
  refine ⟨fun s hf ht hh => ?_, fun s e es hs he hh => ?_, fun s x u c es hs hh => ?_⟩
  · have hnext : s.nextEvent = Config.hostEvent s.turn := by simp only [State.nextEvent, hh]
    have htook : s.tookEvent = { s with turn := s.turn + 1 } := by simp only [State.tookEvent, hh]
    cases he : Config.hostEvent s.turn with
    | none => exact (step_of_no_event hf ht (hnext.trans he)).trans (congrArg _ htook)
    | some e =>
      have hrest : ({ s with turn := s.turn + 1, host := [] } : State) = { s with turn := s.turn + 1 } := by
        rw [hh]
      have hlisted := step_of_listed (s := { s with turn := s.turn + 1, host := [e] }) hf ht rfl
      rw [step_of_event hf ht (hnext.trans he), htook, ← hrest]
      exact hlisted.symm
  · rw [step_of_listed (by simp [hs]) (by simp [hs]) hh]
    cases e with
    | cycle c => exact absurd rfl (he c)
    | keyDown | terminate => simp only [State.accept, hs]
  · rw [step_of_listed (by simp [hs]) (by simp [hs]) hh]
    simp only [State.accept, hs]

end Sys2Proof.Machine
end

section
/-! SUPPORT. Entering and leaving the key wait (spec/45_timers_input.md R283, R284). -/

namespace Sys2Proof.Machine

/-- Settles O30: the status is the one field written. -/
theorem keyWaitBegins : Obligations.KeyWaitBegins := by
  unfold Obligations.KeyWaitBegins
  intro x s
  obtain ⟨hsystem, hbeep, htimers⟩ : keepsTiming s { s with status := .waitingKey x s.call.now } :=
    keepsTiming_update ..
  exact ⟨_, exec_ldVxK s x, rfl, fun _ => rfl, rfl, rfl, keepsMemory_of_eq rfl rfl, fun _ _ => rfl,
    ⟨rfl, fun _ => rfl⟩, htimers, ⟨rfl, rfl, hbeep⟩, hsystem⟩

/-- A key value, as Vx holds it. -/
theorem keyByte_toNat (k : Nibble) : (k.setWidth 8).toNat = k.toNat :=
  BitVec.toNat_setWidth_of_le (by decide)

/-- Settles O31: the listed event is taken, and either way of ending the wait is an update that `keepsInWait` allows. -/
theorem keyWaitEnds : Obligations.KeyWaitEnds := by
  unfold Obligations.KeyWaitEnds
  intro s x u es hs
  have hf (r : FaultRecord) : s.status ≠ .faulted r := by simp [hs]
  have ht : s.status ≠ .terminated := by simp [hs]
  refine ⟨fun k hh => ?_, fun hh => ?_⟩
  · have hstep : step s = .next (State.keyRelease { s with host := es } x u k) := by
      rw [step_of_listed hf ht hh]
      simp only [State.accept, hs]
    have hkeeps : keepsInWait s (State.keyRelease { s with host := es } x u k) x :=
      keepsInWait_update (fun _ hj => s.reg_setReg_ne _ hj) ..
    obtain ⟨hpc, hi, hmem, hdisp, hstack, htimers, houtputs, htick, hregs⟩ := hkeeps
    refine ⟨_, hstep, rfl, ?_, rfl, htick, hregs, hpc, hi, hmem, hdisp, hstack, htimers, houtputs⟩
    exact (congrArg BitVec.toNat (s.reg_setReg_self x _)).trans (keyByte_toNat k)
  · have hstep : step s = .next (State.terminate { s with host := es }) := by
      rw [step_of_listed hf ht hh]
      simp only [State.accept, hs]
    have hkeeps : keepsInWait s (State.terminate { s with host := es }) x :=
      keepsInWait_update (fun _ _ => rfl) ..
    obtain ⟨hpc, hi, hmem, hdisp, hstack, htimers, houtputs, htick, -⟩ := hkeeps
    exact ⟨_, hstep, rfl, rfl, htick, fun _ => rfl, hpc, hi, hmem, hdisp, hstack, htimers, houtputs⟩

end Sys2Proof.Machine
end

section
/-! SUPPORT. Construction (spec/70_reset_and_hazards.md R350, R351): when it is refused, and the machine it gives. -/

namespace Sys2Proof.Machine

theorem construct_cases (c : Config) :
    ((c.ips = 0 ∨ 3584 < c.rom.length) ∧ ∃ r, construct c = .error r) ∨
    (1 ≤ c.ips ∧ c.rom.length ≤ 3584 ∧ construct c = .ok (State.initial c)) := by
  unfold construct
  split
  · next h => exact .inl ⟨.inl h, _, rfl⟩
  split
  · next h => exact .inl ⟨.inr h, _, rfl⟩
  · next hips hrom => exact .inr ⟨Nat.pos_of_ne_zero hips, Nat.le_of_not_lt hrom, rfl⟩

/-- Settles O56, by the three answers of construction. -/
theorem constructionRefusals : Obligations.ConstructionRefusals := by
  unfold Obligations.ConstructionRefusals
  intro c
  obtain ⟨hbad, herror⟩ | ⟨hips, hrom, hok⟩ := construct_cases c
  · exact iff_of_true herror hbad
  · refine iff_of_false (fun ⟨r, hr⟩ => ?_) (by omega)
    rw [hok] at hr
    cases hr

/-- Settles O55: the values are those of `State.initial`. -/
theorem constructionValues : Obligations.ConstructionValues := by
  unfold Obligations.ConstructionValues
  intro c hips hrom
  have hregs (j : Nibble) : (State.initial c).reg j = 0#8 := Vector.getElem_replicate _
  have hslots (k : Fin 16) : (State.initial c).stack[k] = 0#16 := Vector.getElem_replicate _
  exact ⟨_, construct_accepted hips hrom, hregs, rfl, rfl, hslots, rfl, rfl, Display.get_clear, rfl, rfl,
    rfl, rfl, rfl, rfl, rfl, rfl⟩

theorem initial_inv {c : Config} (hips : 1 ≤ c.ips) (hrom : c.rom.length ≤ 3584) :
    (State.initial c).Inv := by
  have hslots (k : Nat) (hk : k < 16) : (State.initial c).stack[k].toNat ≤ 0x1000 := by
    simp [State.initial]
  exact .of_running rfl (by simp [Config.wf, State.initial, hips, hrom]) (Memory.wf_nil _)
    (by simp [State.initial]) hslots (by simp [State.initial])

/-- Settles O57: construction gives `State.initial` of an accepted configuration, and the default one is accepted. -/
theorem constructedMachinesMeetTheInvariant : Obligations.ConstructedMachinesMeetTheInvariant := by
  unfold Obligations.ConstructedMachinesMeetTheInvariant
  have hips : 1 ≤ Config.default.ips := by decide
  have hrom : Config.default.rom.length ≤ 3584 := by decide
  refine ⟨initial_inv hips hrom, construct_accepted hips hrom, fun c s h => ?_⟩
  obtain ⟨-, r, hr⟩ | ⟨hips, hrom, hok⟩ := construct_cases c
  · rw [hr] at h
    cases h
  · obtain rfl : State.initial c = s := by simpa [hok] using h
    exact initial_inv hips hrom

end Sys2Proof.Machine
end

section
/-! SUPPORT. The other ALU, flow and index instructions (spec/43_alu.md R231, R232, spec/42_control_flow.md R180 to R189,
spec/44_index_memory.md R251). -/

namespace Sys2Proof.Machine

section

variable (a b : Byte)

/-! ### Values as numbers -/

theorem byte_shiftLeft_one_toNat : (a <<< 1).toNat = a.toNat * 2 % 256 := by
  rw [BitVec.toNat_shiftLeft, Nat.shiftLeft_eq]

/-- Bit 7 in its place, or moved down to bit 0 (R231, D7). -/
theorem shiftedOutLeft_toNat (raw : Bool) :
    (shiftedOutLeft raw a).toNat = if raw = true then a.toNat / 128 * 128 else a.toNat / 128 := by
  have hlt : a.toNat < 256 := a.isLt
  cases raw with
  | false => exact (BitVec.toNat_ushiftRight a 7).trans (Nat.shiftRight_eq_div_pow _ 7)
  | true =>
    have hmask : (a &&& 0x80#8).toNat = (a.toNat.testBit 7).toNat * 2 ^ 7 :=
      (BitVec.toNat_and a 0x80#8).trans (Nat.and_two_pow a.toNat 7)
    refine hmask.trans ?_
    rw [Nat.testBit_eq_decide_div_mod_eq, if_pos rfl]
    obtain h | h : a.toNat / 128 = 0 ∨ a.toNat / 128 = 1 := by omega
    · simp [h]
    · simp [h]

variable (s : State)

/-- Both comparisons of a skip, with bytes as numbers. -/
theorem skipIf_beq_pc_toNat : (s.skipIf (a == b)).pc.toNat =
    if a.toNat = b.toNat then (s.pc.toNat + 2) % 65536 else s.pc.toNat := by
  rw [State.skipIf_pc_toNat]
  simp only [beq_iff_eq, BitVec.toNat_inj]

theorem skipIf_bne_pc_toNat : (s.skipIf (a != b)).pc.toNat =
    if a.toNat = b.toNat then s.pc.toNat else (s.pc.toNat + 2) % 65536 := by
  rw [State.skipIf_pc_toNat]
  simp only [bne_iff_ne, BitVec.toNat_inj, ite_not, ne_eq]

end

/-! ### The statements -/

/-- Settles O10: y does not occur in what 8xyE answers, and the flag is bit 7 at either setting. -/
theorem shiftLeftAndTheBitShiftedOut : Obligations.ShiftLeftAndTheBitShiftedOut := by
  unfold Obligations.ShiftLeftAndTheBitShiftedOut
  exact fun x y s =>
    exec_resultAndFlag (exec_shl s x y) (byte_shiftLeft_one_toNat _) (shiftedOutLeft_toNat _ _)

/-- Settles O11: the register written holds the bitwise conjunction. -/
theorem randomByteIsMasked : Obligations.RandomByteIsMasked := by
  unfold Obligations.RandomByteIsMasked
  refine fun x nn s => ⟨_, exec_rnd s x nn, fun k _ => ?_, writesRegsOnly_setReg s x _⟩
  rw [State.reg_setReg_self, BitVec.getLsbD_and]

/-- Settles O13: the sum does not reach 2^16. -/
theorem computedJumpAddsV0 : Obligations.ComputedJumpAddsV0 := by
  unfold Obligations.ComputedJumpAddsV0
  exact fun nnn s => ⟨_, exec_jpV0 s nnn, jpV0_target_toNat nnn _, writesPcOnly_jumpTo s _⟩

/-- Settles O14: each is a skip on an equality of bytes or on its negation. -/
theorem comparisonSkips : Obligations.ComparisonSkips := by
  unfold Obligations.ComparisonSkips
  exact fun x y nn s =>
    ⟨⟨_, exec_seImm s x nn, writesPcOnly_skipIf s _, skipIf_beq_pc_toNat _ _ s⟩,
      ⟨_, exec_sneImm s x nn, writesPcOnly_skipIf s _, skipIf_bne_pc_toNat _ _ s⟩,
      ⟨_, exec_seReg s x y, writesPcOnly_skipIf s _, skipIf_beq_pc_toNat _ _ s⟩,
      ⟨_, exec_sneReg s x y, writesPcOnly_skipIf s _, skipIf_bne_pc_toNat _ _ s⟩⟩

/-- Settles O15: the push writes the slot at SP, which `k` names. -/
theorem callPushesTheReturnAddress : Obligations.CallPushesTheReturnAddress := by
  unfold Obligations.CallPushesTheReturnAddress
  intro nnn s k hk
  have hfree : s.sp.val < 16 := hk ▸ k.isLt
  obtain ⟨hsystem, hbeep, htimers⟩ : keepsTiming s { s with
      pc := zextAddr nnn
      stack := s.stack.set s.sp.val s.pc hfree
      sp := ⟨s.sp.val + 1, by omega⟩ } := keepsTiming_update ..
  have htop : (s.stack.set s.sp.val s.pc hfree)[k] = s.pc := by simp [hk]
  have hothers (j : Fin 16) (hj : j ≠ k) : (s.stack.set s.sp.val s.pc hfree)[j] = s.stack[j] :=
    Vector.getElem_set_ne hfree j.isLt fun e => hj (Fin.ext (e.symm.trans hk))
  exact ⟨_, exec_call_push s nnn hfree, htop, hothers, rfl, zextAddr_toNat nnn, fun _ => rfl, rfl, rfl,
    keepsMemory_of_eq rfl rfl, fun _ _ => rfl, htimers, ⟨rfl, rfl, hbeep⟩, hsystem⟩

/-- Settles O16: the pop reads the slot below SP, which `k` names, and writes PC and SP only. -/
theorem returnPopsTheReturnAddress : Obligations.ReturnPopsTheReturnAddress := by
  unfold Obligations.ReturnPopsTheReturnAddress
  intro s k hk
  have hused : 0 < s.sp.val := by omega
  obtain ⟨hsystem, hbeep, htimers⟩ : keepsTiming s { s with
      pc := s.stack[s.sp.val - 1]'(by omega)
      sp := ⟨s.sp.val - 1, by omega⟩ } := keepsTiming_update ..
  have htop : s.stack[s.sp.val - 1]'(by omega) = s.stack[k] := by simp [hk]
  exact ⟨_, exec_ret_pop s hused, htop, by simp [hk], fun _ => rfl, fun _ => rfl, rfl, rfl,
    keepsMemory_of_eq rfl rfl, fun _ _ => rfl, htimers, ⟨rfl, rfl, hbeep⟩, hsystem⟩

/-- Settles O17: both are `raiseInstr`, which writes the status only. -/
theorem stackFaultsDoNothingElse : Obligations.StackFaultsDoNothingElse := by
  unfold Obligations.StackFaultsDoNothingElse
  exact ⟨fun nnn s h => exec_call_full s nnn h, fun s h => exec_ret_empty s h⟩

/-- Settles O20: a write to I, of the sum modulo 2^16. -/
theorem indexAdditionWraps : Obligations.IndexAdditionWraps := by
  unfold Obligations.IndexAdditionWraps
  refine fun x s => ⟨_, exec_addI s x, ?_, writesIndexOnly_setI s _⟩
  rw [State.setI_i, BitVec.toNat_add, zextByte_toNat]

end Sys2Proof.Machine
end

section
/-! SUPPORT. The range-checked memory instructions (spec/44_index_memory.md R253 to R255, spec/20_memory.md R74): the
bytes a store writes and what it leaves, the registers a load reads, and the fault of a range past 0xFFF. -/

namespace Sys2Proof.Machine

/-- An instruction that writes memory only. -/
def writesMemoryOnly (s t : State) : Prop :=
  keepsRegs s t ∧ t.pc = s.pc ∧ t.i = s.i ∧ t.status = s.status ∧ keepsDisplay s t ∧
  keepsStack s t ∧ keepsTimers s t ∧ keepsOutputs s t ∧ keepsSystem s t

section

variable {s : State}

theorem writesMemoryOnly_storeBytes (base : Nat) (xs : List Byte) :
    writesMemoryOnly s (s.storeBytes base xs) := by
  obtain ⟨hsystem, hbeep, htimers⟩ := keepsTiming_storeBytes s base xs
  rw [State.storeBytes_eq] at *
  exact ⟨fun _ => rfl, rfl, rfl, rfl, fun _ _ => rfl, ⟨rfl, fun _ => rfl⟩, htimers,
    ⟨rfl, rfl, hbeep⟩, hsystem⟩

/-- A stored byte, by its place in the range. -/
theorem byteAt_storeBytes_add (h : s.mem.wf s.config = true) {base : Nat} {xs : List Byte} {k : Nat}
    (hk : k < xs.length) (hend : base + xs.length ≤ 0x1000) :
    (s.storeBytes base xs).byteAt (base + k) = xs.getD k 0#8 := by
  rw [State.byteAt_storeBytes h, if_pos (by omega), Nat.add_sub_cancel_left]

theorem keepsMemoryOutside_storeBytes (h : s.mem.wf s.config = true) (base : Nat) (xs : List Byte) :
    keepsMemoryOutside s (s.storeBytes base xs) base xs.length := by
  intro a ha
  rw [State.byteAt_storeBytes h, if_neg fun ⟨hlo, hhi, _⟩ => ha ⟨hlo, hhi⟩]

end

/-- Settles O21: the three bytes stored are the digits. -/
theorem decimalDigitsAreStored : Obligations.DecimalDigitsAreStored := by
  unfold Obligations.DecimalDigitsAreStored
  intro x s hwf hi
  have hrange : s.i.toNat + 3 ≤ 0x1000 := by omega
  have hdigit (k : Nat) (hk : k < 3) :
      (s.storeBytes s.i.toNat (decimalDigits (s.reg x))).byteAt (s.i.toNat + k) =
        (decimalDigits (s.reg x)).getD k 0#8 :=
    byteAt_storeBytes_add hwf hk hrange
  refine ⟨_, exec_ldB_inRange s x hrange, ?_, ?_, ?_,
    keepsMemoryOutside_storeBytes hwf _ (decimalDigits (s.reg x)), writesMemoryOnly_storeBytes _ _⟩
  · exact (congrArg BitVec.toNat (hdigit 0 (by decide))).trans (BitVec.toNat_udiv ..)
  · rw [hdigit 1 (by decide)]
    exact (BitVec.toNat_umod ..).trans (congrArg (· % 10) (BitVec.toNat_udiv ..))
  · rw [hdigit 2 (by decide)]
    exact BitVec.toNat_umod ..

/-- Settles O22: the bytes stored are the registers in ascending order. -/
theorem registersAreStored : Obligations.RegistersAreStored := by
  unfold Obligations.RegistersAreStored
  intro x s hwf hi
  have hlen : (s.regsFrom 0 (x.toNat + 1)).length = x.toNat + 1 := s.regsFrom_length 0 _
  refine ⟨_, exec_stRegs_inRange s x (by omega), fun j hj => ?_, ?_, writesMemoryOnly_storeBytes _ _⟩
  · rw [byteAt_storeBytes_add hwf (by omega) (by omega), State.regsFrom_getD s 0 _ _ (by omega)]
    simp
  · have hkeeps := keepsMemoryOutside_storeBytes hwf s.i.toNat (s.regsFrom 0 (x.toNat + 1))
    rwa [hlen] at hkeeps

/-- Settles O23: the registers loaded are those up to x. -/
theorem registersAreLoaded : Obligations.RegistersAreLoaded := by
  unfold Obligations.RegistersAreLoaded
  intro x s hi
  refine ⟨_, exec_ldRegs_inRange s x (by omega), fun j hj => ?_, writesRegsOnly_loadRegs _ x⟩
  rw [State.reg_loadRegs s _ _ x.isLt, if_pos (by omega)]

/-- Settles O24: each of the four forms raises with the first address above 0xFFF. -/
theorem rangeFaultsHaveNoEffect : Obligations.RangeFaultsHaveNoEffect := by
  unfold Obligations.RangeFaultsHaveNoEffect
  intro i s len hform hpos hlast
  have hend : 0x1000 < s.i.toNat + len := by omega
  have hfirst : (if s.i.toNat ≤ 0xFFF then 0x1000 else s.i.toNat) = max s.i.toNat 0x1000 := by
    split <;> omega
  rw [hfirst]
  obtain ⟨x, y, n, rfl, rfl⟩ | ⟨x, rfl, rfl⟩ | ⟨x, rfl, rfl⟩ | ⟨x, rfl, rfl⟩ := hform
  · have hn : n ≠ 0#4 := by rintro rfl; exact absurd hpos (by decide)
    exact exec_drw_outOfRange s x y n hn hend
  · exact exec_ldB_outOfRange s x hend
  · exact exec_stRegs_outOfRange s x hend
  · exact exec_ldRegs_outOfRange s x hend

end Sys2Proof.Machine
end

section
/-! SUPPORT. A canonical memory lists exactly the bytes that differ from the image (log 13), so its contents decide
it. -/

namespace Sys2Proof.Machine

/-- In a list of rising addresses, what is listed is what a lookup finds. -/
theorem Memory.lookup_eq_some_iff {m : Memory} (h : m.Pairwise fun p q => p.1 < q.1) {a : Nat}
    {x : Byte} : m.lookup a = some x ↔ (a, x) ∈ m := by
  refine ⟨Memory.mem_of_lookup, fun hmem => ?_⟩
  induction m with
  | nil => cases hmem
  | cons p m ih =>
    obtain ⟨hfirst, hrest⟩ := List.pairwise_cons.1 h
    obtain rfl | hmem := List.mem_cons.1 hmem
    · exact if_pos rfl
    · have hlt : p.1 < a := hfirst _ hmem
      exact (if_neg hlt.ne').trans (ih hrest hmem)

/-- An entry of a canonical memory is an address in memory and what it reads as, other than the image. -/
theorem Memory.mem_iff_read {c : Config} {m : Memory} (h : m.wf c = true) {a : Nat} {x : Byte} :
    (a, x) ∈ m ↔ a < memSize ∧ m.read c a = x ∧ x ≠ c.image a := by
  obtain ⟨hsorted, hentries⟩ := (Memory.wf_iff c m).1 h
  rw [← Memory.lookup_eq_some_iff hsorted]
  constructor
  · intro hlook
    obtain ⟨ha, hx⟩ := hentries _ (Memory.mem_of_lookup hlook)
    exact ⟨ha, by rw [Memory.read, hlook]; rfl, hx⟩
  · rintro ⟨-, hread, hx⟩
    unfold Memory.read at hread
    cases hlook : m.lookup a with
    | none => rw [hlook] at hread; exact absurd hread.symm hx
    | some y => rw [hlook] at hread; exact congrArg some hread

/-- Settles O49: both memories are sorted and list the same entries. -/
theorem canonicalMemoryIsItsContents : Obligations.CanonicalMemoryIsItsContents := by
  unfold Obligations.CanonicalMemoryIsItsContents
  intro c m n hm hn hread
  obtain ⟨hmsorted, -⟩ := (Memory.wf_iff c m).1 hm
  obtain ⟨hnsorted, -⟩ := (Memory.wf_iff c n).1 hn
  have hsame (p : Host.Cell) : p ∈ m ↔ p ∈ n := by
    obtain ⟨a, x⟩ := p
    rw [Memory.mem_iff_read hm, Memory.mem_iff_read hn]
    exact and_congr_right fun ha => by rw [hread a ha]
  have hirrefl : Std.Irrefl fun p q : Host.Cell => p.1 < q.1 := ⟨fun p => Nat.lt_irrefl p.1⟩
  have hantisymm : Std.Antisymm fun p q : Host.Cell => p.1 < q.1 :=
    ⟨fun p q hpq hqp => absurd hqp (Nat.lt_asymm hpq)⟩
  exact hmsorted.eq_of_mem_iff hnsorted hsame

end Sys2Proof.Machine
end

section
/-! SUPPORT. The sprite draw (spec/41_display.md R161 to R163): the pixels and the collision of Dxyn in the terms of
`spriteDot`, and a second draw of the same sprite. -/

namespace Sys2Proof.Machine

/-- The sprite bit of Dxyn in `s` on row r and column c of the screen. -/
def State.spriteAt (s : State) (x y n : Nibble) (r c : Nat) : Bool :=
  spriteBit (s.bytesFrom s.i.toNat n.toNat) ((s.reg y).toNat % 32) ((s.reg x).toNat % 64) r c

section

variable {s t : State} {x y n : Nibble}

/-- The rows of the sprite are the bytes from I on. -/
theorem spriteAt_iff {r c : Nat} : s.spriteAt x y n r c = true ↔
    spriteDot s n.toNat ((s.reg y).toNat % 32) ((s.reg x).toNat % 64) r c := by
  unfold State.spriteAt spriteBit rowBit spriteDot
  rw [State.bytesFrom_length]
  by_cases hr : (s.reg y).toNat % 32 ≤ r ∧ r < (s.reg y).toNat % 32 + n.toNat
  · rw [State.bytesFrom_getD s _ _ _ (by omega)]
    simp [hr, and_assoc]
  · simp [hr]
    omega

theorem drawSprite_get {r c : Nat} (hr : r < 32) (hc : c < 64) :
    (s.drawSprite x y n).disp.get r c = (s.disp.get r c ^^ s.spriteAt x y n r c) :=
  drawRows_get _ _ _ _ r c hr hc

/-- VF holds the collision as a flag (R161). -/
theorem reg_drawSprite_vf : ∃ hit : Bool, (s.drawSprite x y n).reg vf = flagByte hit ∧
    (hit = true ↔ ∃ r c, r < 32 ∧ c < 64 ∧ s.disp.get r c = true ∧ s.spriteAt x y n r c = true) :=
  ⟨_, State.reg_setReg_self s vf _, by rw [drawRows_hit]; simp [State.spriteAt, and_comm]⟩

/-- A draw writes neither the sprite's bytes nor I, and among the registers VF only: the next sprite of the same
registers is the same. -/
theorem spriteAt_drawSprite (hx : x ≠ vf) (hy : y ≠ vf) (r c : Nat) :
    (s.drawSprite x y n).spriteAt x y n r c = s.spriteAt x y n r c := by
  have hbytes (base len : Nat) : (s.drawSprite x y n).bytesFrom base len = s.bytesFrom base len := by
    induction len generalizing base with
    | zero => rfl
    | succ len ih => exact congrArg (s.byteAt base :: ·) (ih (base + 1))
  simp only [State.spriteAt, hbytes, reg_drawSprite_ne x y n hx, reg_drawSprite_ne x y n hy,
    State.drawSprite_i]

end

/-- Settles O26: the pixels by `drawSprite_get`, the collision by `reg_drawSprite_vf`. -/
theorem spriteFlipsPixelsAndCollides : Obligations.SpriteFlipsPixelsAndCollides := by
  unfold Obligations.SpriteFlipsPixelsAndCollides
  intro x y n s hrange
  obtain ⟨hsystem, hbeep, htimers⟩ : keepsTiming s (s.drawSprite x y n) := keepsTiming_update ..
  refine ⟨_, exec_drw_inRange s x y n hrange, fun r c hr hc => ?_, ?_, rfl, rfl, hbeep,
    fun j hj => reg_drawSprite_ne x y n hj, rfl, rfl, rfl, keepsMemory_of_eq rfl rfl,
    ⟨rfl, fun _ => rfl⟩, htimers, hsystem⟩
  · rw [drawSprite_get hr hc, ← spriteAt_iff]
    cases s.disp.get r c <;> cases s.spriteAt x y n r c <;> decide
  · obtain ⟨hit, hvf, hiff⟩ := reg_drawSprite_vf (s := s) (x := x) (y := y) (n := n)
    simp only [spriteAt_iff] at hiff
    rw [hvf, ← hiff]
    cases hit with
    | true => exact .inl ⟨rfl, rfl⟩
    | false => exact .inr ⟨by decide, rfl⟩

/-- Settles O27: both draws flip the pixels under the same sprite bits. -/
theorem drawingTwiceRestoresTheDisplay : Obligations.DrawingTwiceRestoresTheDisplay := by
  unfold Obligations.DrawingTwiceRestoresTheDisplay
  intro x y n s hx hy hrange
  refine ⟨_, _, exec_drw_inRange s x y n hrange,
    exec_drw_inRange (s.drawSprite x y n) x y n hrange, Display.ext_get fun r c hr hc => ?_⟩
  rw [drawSprite_get hr hc, drawSprite_get hr hc, spriteAt_drawSprite hx hy]
  simp

end Sys2Proof.Machine
end
